-- ==== Sys2Proof/Word.lean ====
section
/-! DEFINITION. The word types of the block (R12: every value is an unsigned bit vector of a stated width). -/

namespace Sys2Proof

/-- A byte: 8 bits (R62). -/
abbrev Byte := BitVec 8

/-- The 16-bit `b` slot of a command word (R105). -/
abbrev Half := BitVec 16

/-- A 32-bit value: `MAGIC`, `FRAME_COUNTER`, the `d` slot, a response value, an opaque address handle (R9, R20, R105, R112). -/
abbrev Word := BitVec 32

/-- A 64-bit command word, format `C64` (R105). -/
abbrev Cmd := BitVec 64

end Sys2Proof
end

