-- ==== Sys2Proof/Syntax.lean ====
section
/-! DEFINITION. The commands of the block, one constructor per row of spec/opcode_table.json (R110), with their operands. -/

namespace Sys2Proof

/-- The bank operand `k` (R107): value 3 does not exist. -/
inductive Bank where
  /-- `H[0]`, the working header. -/
  | working
  /-- `H[1]`, the header inside the transmit packet. -/
  | transmit
  /-- `H[2]`, the header inside the receive packet. -/
  | receive
deriving DecidableEq, Repr

/-- The header field selector `f` of `HRD` and `HWR` (R108). -/
inductive Field where
  | magic
  | formatSr
  | formatNbs
  | formatNbc
  | formatBit
  | frameCounter
  /-- `STREAM_NAME[i]`, selector `16 + i`. -/
  | name (i : BitVec 4)
deriving DecidableEq, Repr

/-- The 33 commands (R110). A sub-protocol operand is its 3-bit tag, a rate index 5 bits, a data type 3 bits, a codec the
4-bit tag (R109). An address operand is `none` when its valid bit `a[0]` is 0 (R190, R191). -/
inductive Instr where
  | getsp (x : Byte)
  | isaudio (x : Byte)
  | isserial (x : Byte)
  | istext (x : Byte)
  | isservice (x : Byte)
  | getsr (x : Byte)
  | getrate (sp : BitVec 3) (idx : BitVec 5)
  | getdt (x : Byte)
  | dtsize (dt : BitVec 3)
  | getcodec (x : Byte) (sp : BitVec 3)
  | hnew (k : Bank) (sp : BitVec 3)
  | setname (k : Bank)
  | getname (k : Bank)
  | getspf (k : Bank)
  | setspf (k : Bank) (n : Half)
  | getch (k : Bank)
  | setch (k : Bank) (n : Half)
  /-- `rsv` is `b[11]`: either value, stored as 0 (R157). -/
  | setafmt (k : Bank) (idx : BitVec 5) (dt : BitVec 3) (rsv : BitVec 1) (codec : BitVec 4)
  | hmarshal (k : Bank)
  | hunmarshal (k : Bank)
  | hrd (k : Bank) (f : Field)
  | hwr (k : Bank) (f : Field) (v : Word)
  | pnew (k : Bank) (n : Half)
  | pmarshal
  | punmarshal
  | epopen (remote : Option Word)
  | send (addr : Option Word)
  | recv
  | close
  | crd (r : Byte)
  | cwr (r : Byte) (v : Word)
  | ldb (sp : Byte) (i : Half)
  | stb (sp : Byte) (i : Half) (v : Byte)
deriving DecidableEq, Repr

end Sys2Proof
end

