-- ==== Sys2Proof/WellFormed.lean ====
section
/-! DEFINITION. Which terms of Instr some command word stands for: the one condition that the operand types do not carry. -/

namespace Sys2Proof

/-- The width in bits of a header field (R108). -/
def Field.bits : Field → Nat
  | .magic => 32
  | .frameCounter => 32
  | .formatSr => 8
  | .formatNbs => 8
  | .formatNbc => 8
  | .formatBit => 8
  | .name _ => 8

/-- The value slot suits the field: for an 8-bit field `d[31:8]` must be zero (R110, `HWR`). -/
def Field.fits (f : Field) (v : Word) : Bool := decide (v.toNat < 2 ^ f.bits)

/-- A command that some command word encodes (R110). Bank 3, an undefined selector and an address beside a zero valid bit
cannot be written as a term of Instr; a value too wide for the field of `HWR` can. -/
def Instr.wf : Instr → Bool
  | .hwr _ f v => f.fits v
  | _ => true

end Sys2Proof
end

