-- ==== Sys2Proof/Decode.lean ====
section
/-! DEFINITION. Decoding a command word (R105 to R110), total and rejecting by name, and the encoder. -/

namespace Sys2Proof

/-- Why a command word is refused before its operation's own rule runs (R106 steps 1 to 3). The reason is not visible to the
host: each answers `(VAL_ILLEGAL, 0)`. -/
inductive DecodeError where
  /-- Step 1: `op` is not one of the 33 codes of R110. -/
  | unknownOpcode (op : Byte)
  /-- Step 2: a bit that R110 marks MBZ is not zero. -/
  | mustBeZero
  /-- Step 2: `d` is not zero although the address valid bit `a[0]` is 0 (`EPOPEN`, `SEND`). -/
  | strayAddress
  /-- Step 2: `d[31:8]` is not zero for an 8-bit field (`HWR`). -/
  | wideValue
  /-- Step 3: bank 3 (R107). -/
  | bankThree
  /-- Step 3: a field selector 6..15 or 32..255 (R108). -/
  | undefinedSelector (f : Byte)
deriving DecidableEq, Repr

/-- The four slots of a command word (R105). -/
structure Slots where
  op : Byte
  a : Byte
  b : Half
  d : Word
deriving DecidableEq, Repr

/-- `op = w[7:0]`, `a = w[15:8]`, `b = w[31:16]`, `d = w[63:32]` (R105). -/
def Slots.ofWord (w : Cmd) : Slots :=
  { op := w.extractLsb' 0 8, a := w.extractLsb' 8 8, b := w.extractLsb' 16 16, d := w.extractLsb' 32 32 }

/-- The command word of four slots (R105). -/
def Slots.toWord (f : Slots) : Cmd := f.d ++ f.b ++ f.a ++ f.op

/-- The 33 operations (R110). -/
inductive Opcode where
  | getsp | isaudio | isserial | istext | isservice | getsr | getrate | getdt | dtsize | getcodec
  | hnew | setname | getname | getspf | setspf | getch | setch | setafmt | hmarshal | hunmarshal | hrd | hwr
  | pnew | pmarshal | punmarshal
  | epopen | send | recv | close
  | crd | cwr | ldb | stb
deriving DecidableEq, Repr

/-- The opcode map (R110), from operation to code. -/
def Opcode.code : Opcode → Byte
  | .getsp => 0x10
  | .isaudio => 0x11
  | .isserial => 0x12
  | .istext => 0x13
  | .isservice => 0x14
  | .getsr => 0x15
  | .getrate => 0x16
  | .getdt => 0x17
  | .dtsize => 0x18
  | .getcodec => 0x19
  | .hnew => 0x20
  | .setname => 0x21
  | .getname => 0x22
  | .getspf => 0x23
  | .setspf => 0x24
  | .getch => 0x25
  | .setch => 0x26
  | .setafmt => 0x27
  | .hmarshal => 0x28
  | .hunmarshal => 0x29
  | .hrd => 0x2A
  | .hwr => 0x2B
  | .pnew => 0x30
  | .pmarshal => 0x31
  | .punmarshal => 0x32
  | .epopen => 0x40
  | .send => 0x41
  | .recv => 0x42
  | .close => 0x43
  | .crd => 0x50
  | .cwr => 0x51
  | .ldb => 0x52
  | .stb => 0x53

/-- The opcode map (R110), from code to operation; every other code is refused. -/
def Opcode.ofCode (op : Byte) : Option Opcode :=
  match op.toNat with
  | 0x10 => some .getsp
  | 0x11 => some .isaudio
  | 0x12 => some .isserial
  | 0x13 => some .istext
  | 0x14 => some .isservice
  | 0x15 => some .getsr
  | 0x16 => some .getrate
  | 0x17 => some .getdt
  | 0x18 => some .dtsize
  | 0x19 => some .getcodec
  | 0x20 => some .hnew
  | 0x21 => some .setname
  | 0x22 => some .getname
  | 0x23 => some .getspf
  | 0x24 => some .setspf
  | 0x25 => some .getch
  | 0x26 => some .setch
  | 0x27 => some .setafmt
  | 0x28 => some .hmarshal
  | 0x29 => some .hunmarshal
  | 0x2A => some .hrd
  | 0x2B => some .hwr
  | 0x30 => some .pnew
  | 0x31 => some .pmarshal
  | 0x32 => some .punmarshal
  | 0x40 => some .epopen
  | 0x41 => some .send
  | 0x42 => some .recv
  | 0x43 => some .close
  | 0x50 => some .crd
  | 0x51 => some .cwr
  | 0x52 => some .ldb
  | 0x53 => some .stb
  | _ => none

/-- The `mask` of an opcode-table row: the opcode bits and the bits that are MBZ whatever the other operands are (R110). -/
def Opcode.mask : Opcode → Cmd
  | .getsp => 0xFFFFFFFFFFFF00FF
  | .isaudio => 0xFFFFFFFFFFFF00FF
  | .isserial => 0xFFFFFFFFFFFF00FF
  | .istext => 0xFFFFFFFFFFFF00FF
  | .isservice => 0xFFFFFFFFFFFF00FF
  | .getsr => 0xFFFFFFFFFFFF00FF
  | .getrate => 0xFFFFFFFFFFE01FFF
  | .getdt => 0xFFFFFFFFFFFF00FF
  | .dtsize => 0xFFFFFFFFFFFFF8FF
  | .getcodec => 0xFFFFFFFFFF1F00FF
  | .hnew => 0xFFFFFFFFFF1FFCFF
  | .setname => 0xFFFFFFFFFFFFFCFF
  | .getname => 0xFFFFFFFFFFFFFCFF
  | .getspf => 0xFFFFFFFFFFFFFCFF
  | .setspf => 0xFFFFFFFF0000FCFF
  | .getch => 0xFFFFFFFFFFFFFCFF
  | .setch => 0xFFFFFFFF0000FCFF
  | .setafmt => 0xFFFFFFFF00E0FCFF
  | .hmarshal => 0xFFFFFFFFFFFFFCFF
  | .hunmarshal => 0xFFFFFFFFFFFFFCFF
  | .hrd => 0xFFFFFFFFFF00FCFF
  | .hwr => 0x00000000FF00FCFF
  | .pnew => 0xFFFFFFFF0000FCFF
  | .pmarshal => 0xFFFFFFFFFFFFFFFF
  | .punmarshal => 0xFFFFFFFFFFFFFFFF
  | .epopen => 0x00000000FFFFFEFF
  | .send => 0x00000000FFFFFEFF
  | .recv => 0xFFFFFFFFFFFFFFFF
  | .close => 0xFFFFFFFFFFFFFFFF
  | .crd => 0xFFFFFFFFFFFF00FF
  | .cwr => 0x00000000FFFF00FF
  | .ldb => 0xFFFFFFFF000000FF
  | .stb => 0xFFFFFF00000000FF

/-- The `match` of an opcode-table row: the opcode with every other masked bit zero; a word selects the row when
`w & mask = match` (R110). -/
def Opcode.matchWord (o : Opcode) : Cmd := o.code.setWidth 64

/-- The bank of the 2-bit operand `a[1:0]` (R107). -/
def Bank.ofBits (k : BitVec 2) : Option Bank :=
  match k.toNat with
  | 0 => some .working
  | 1 => some .transmit
  | 2 => some .receive
  | _ => none

/-- The 2-bit number of a bank (R107). -/
def Bank.bits : Bank → BitVec 2
  | .working => 0
  | .transmit => 1
  | .receive => 2

/-- The header field of a selector (R108). -/
def Field.ofSelector (f : Byte) : Option Field :=
  if f.extractLsb' 4 4 = 1 then some (.name (f.extractLsb' 0 4))
  else match f.toNat with
    | 0 => some .magic
    | 1 => some .formatSr
    | 2 => some .formatNbs
    | 3 => some .formatNbc
    | 4 => some .formatBit
    | 5 => some .frameCounter
    | _ => none

/-- The selector of a header field (R108). -/
def Field.selector : Field → Byte
  | .magic => 0
  | .formatSr => 1
  | .formatNbs => 2
  | .formatNbc => 3
  | .formatBit => 4
  | .frameCounter => 5
  | .name i => 1#4 ++ i

/-- Commands on one raw byte in `a`: `b` and `d` MBZ (R110). -/
def decodeRawByte (s : Slots) (mk : Byte → Instr) : Except DecodeError Instr :=
  if s.b = 0 ∧ s.d = 0 then .ok (mk s.a) else .error .mustBeZero

/-- Commands on a bank: `a[7:2]` MBZ, the further MBZ bits clear, bank 3 refused (R107). -/
def decodeBank (a : Byte) (mbzClear : Bool) (mk : Bank → Except DecodeError Instr) : Except DecodeError Instr :=
  if a.extractLsb' 2 6 = 0 ∧ mbzClear = true then
    match Bank.ofBits (a.extractLsb' 0 2) with
    | some k => mk k
    | none => .error .bankThree
  else .error .mustBeZero

/-- The field selector in `b[7:0]`, whose `b[15:8]` the caller has checked (R108). -/
def decodeField (f : Byte) (mk : Field → Except DecodeError Instr) : Except DecodeError Instr :=
  match Field.ofSelector f with
  | some g => mk g
  | none => .error (.undefinedSelector f)

/-- Commands with an optional address: `a[7:1]` and `b` MBZ, `d` MBZ when `a[0] = 0` (R110). -/
def decodeAddress (s : Slots) (mk : Option Word → Instr) : Except DecodeError Instr :=
  if s.a.extractLsb' 1 7 = 0 ∧ s.b = 0 then
    if s.a.extractLsb' 0 1 = 1 then .ok (mk (some s.d))
    else if s.d = 0 then .ok (mk none)
    else .error .strayAddress
  else .error .mustBeZero

/-- Commands without operands: `a`, `b`, `d` MBZ (R110). -/
def decodePlain (s : Slots) (i : Instr) : Except DecodeError Instr :=
  if s.a = 0 ∧ s.b = 0 ∧ s.d = 0 then .ok i else .error .mustBeZero

/-- The operands of each operation, with its MBZ bits and operand domains (R106 steps 2 and 3, R110). -/
def decodeOperands (o : Opcode) (s : Slots) : Except DecodeError Instr :=
  match o with
  | .getsp => decodeRawByte s .getsp
  | .isaudio => decodeRawByte s .isaudio
  | .isserial => decodeRawByte s .isserial
  | .istext => decodeRawByte s .istext
  | .isservice => decodeRawByte s .isservice
  | .getsr => decodeRawByte s .getsr
  | .getrate =>
    if s.a.extractLsb' 0 5 = 0 ∧ s.b.extractLsb' 5 11 = 0 ∧ s.d = 0 then
      .ok (.getrate (s.a.extractLsb' 5 3) (s.b.extractLsb' 0 5))
    else .error .mustBeZero
  | .getdt => decodeRawByte s .getdt
  | .dtsize =>
    if s.a.extractLsb' 3 5 = 0 ∧ s.b = 0 ∧ s.d = 0 then .ok (.dtsize (s.a.extractLsb' 0 3)) else .error .mustBeZero
  | .getcodec =>
    if s.b.extractLsb' 0 5 = 0 ∧ s.b.extractLsb' 8 8 = 0 ∧ s.d = 0 then .ok (.getcodec s.a (s.b.extractLsb' 5 3))
    else .error .mustBeZero
  | .hnew =>
    decodeBank s.a (s.b.extractLsb' 0 5 = 0 ∧ s.b.extractLsb' 8 8 = 0 ∧ s.d = 0) fun k =>
      .ok (.hnew k (s.b.extractLsb' 5 3))
  | .setname => decodeBank s.a (s.b = 0 ∧ s.d = 0) fun k => .ok (.setname k)
  | .getname => decodeBank s.a (s.b = 0 ∧ s.d = 0) fun k => .ok (.getname k)
  | .getspf => decodeBank s.a (s.b = 0 ∧ s.d = 0) fun k => .ok (.getspf k)
  | .setspf => decodeBank s.a (s.d = 0) fun k => .ok (.setspf k s.b)
  | .getch => decodeBank s.a (s.b = 0 ∧ s.d = 0) fun k => .ok (.getch k)
  | .setch => decodeBank s.a (s.d = 0) fun k => .ok (.setch k s.b)
  | .setafmt =>
    decodeBank s.a (s.b.extractLsb' 5 3 = 0 ∧ s.d = 0) fun k =>
      .ok (.setafmt k (s.b.extractLsb' 0 5) (s.b.extractLsb' 8 3) (s.b.extractLsb' 11 1) (s.b.extractLsb' 12 4))
  | .hmarshal => decodeBank s.a (s.b = 0 ∧ s.d = 0) fun k => .ok (.hmarshal k)
  | .hunmarshal => decodeBank s.a (s.b = 0 ∧ s.d = 0) fun k => .ok (.hunmarshal k)
  | .hrd =>
    decodeBank s.a (s.b.extractLsb' 8 8 = 0 ∧ s.d = 0) fun k =>
      decodeField (s.b.extractLsb' 0 8) fun f => .ok (.hrd k f)
  | .hwr =>
    decodeBank s.a (s.b.extractLsb' 8 8 = 0) fun k =>
      decodeField (s.b.extractLsb' 0 8) fun f =>
        if f.fits s.d then .ok (.hwr k f s.d) else .error .wideValue
  | .pnew => decodeBank s.a (s.d = 0) fun k => .ok (.pnew k s.b)
  | .pmarshal => decodePlain s .pmarshal
  | .punmarshal => decodePlain s .punmarshal
  | .epopen => decodeAddress s .epopen
  | .send => decodeAddress s .send
  | .recv => decodePlain s .recv
  | .close => decodePlain s .close
  | .crd => decodeRawByte s .crd
  | .cwr => if s.b = 0 then .ok (.cwr s.a s.d) else .error .mustBeZero
  | .ldb => if s.d = 0 then .ok (.ldb s.a s.b) else .error .mustBeZero
  | .stb => if s.d.extractLsb' 8 24 = 0 then .ok (.stb s.a s.b (s.d.extractLsb' 0 8)) else .error .mustBeZero

/-- Decoding a command word (R106): opcode, then MBZ bits and operand domains. -/
def decode (w : Cmd) : Except DecodeError Instr :=
  let s := Slots.ofWord w
  match Opcode.ofCode s.op with
  | some o => decodeOperands o s
  | none => .error (.unknownOpcode s.op)

/-- The instruction the decoder reads from an opcode-table row's word (the table numbers the bits of the one 64-bit word as
R105 does; a row has 64 bits). -/
def decodeTableWord (_nbits w : Nat) : Option Instr :=
  match decode (BitVec.ofNat 64 w) with
  | .ok i => some i
  | .error _ => none

/-- The operation of a command. -/
def Instr.opcode : Instr → Opcode
  | .getsp _ => .getsp
  | .isaudio _ => .isaudio
  | .isserial _ => .isserial
  | .istext _ => .istext
  | .isservice _ => .isservice
  | .getsr _ => .getsr
  | .getrate _ _ => .getrate
  | .getdt _ => .getdt
  | .dtsize _ => .dtsize
  | .getcodec _ _ => .getcodec
  | .hnew _ _ => .hnew
  | .setname _ => .setname
  | .getname _ => .getname
  | .getspf _ => .getspf
  | .setspf _ _ => .setspf
  | .getch _ => .getch
  | .setch _ _ => .setch
  | .setafmt _ _ _ _ _ => .setafmt
  | .hmarshal _ => .hmarshal
  | .hunmarshal _ => .hunmarshal
  | .hrd _ _ => .hrd
  | .hwr _ _ _ => .hwr
  | .pnew _ _ => .pnew
  | .pmarshal => .pmarshal
  | .punmarshal => .punmarshal
  | .epopen _ => .epopen
  | .send _ => .send
  | .recv => .recv
  | .close => .close
  | .crd _ => .crd
  | .cwr _ _ => .cwr
  | .ldb _ _ => .ldb
  | .stb _ _ _ => .stb

/-- The `a` slot that names a bank (R107). -/
def bankSlot (k : Bank) : Byte := 0#6 ++ k.bits

/-- The `a` slot of a command with an optional address: its valid bit (R110). -/
def addressValid : Option Word → Byte
  | some _ => 1
  | none => 0

/-- The operand slots `(a, b, d)` of a command (R110). -/
def Instr.operandSlots : Instr → Byte × Half × Word
  | .getsp x => (x, 0, 0)
  | .isaudio x => (x, 0, 0)
  | .isserial x => (x, 0, 0)
  | .istext x => (x, 0, 0)
  | .isservice x => (x, 0, 0)
  | .getsr x => (x, 0, 0)
  | .getrate sp idx => (sp ++ 0#5, 0#11 ++ idx, 0)
  | .getdt x => (x, 0, 0)
  | .dtsize dt => (0#5 ++ dt, 0, 0)
  | .getcodec x sp => (x, 0#8 ++ sp ++ 0#5, 0)
  | .hnew k sp => (bankSlot k, 0#8 ++ sp ++ 0#5, 0)
  | .setname k => (bankSlot k, 0, 0)
  | .getname k => (bankSlot k, 0, 0)
  | .getspf k => (bankSlot k, 0, 0)
  | .setspf k n => (bankSlot k, n, 0)
  | .getch k => (bankSlot k, 0, 0)
  | .setch k n => (bankSlot k, n, 0)
  | .setafmt k idx dt rsv codec => (bankSlot k, codec ++ rsv ++ dt ++ 0#3 ++ idx, 0)
  | .hmarshal k => (bankSlot k, 0, 0)
  | .hunmarshal k => (bankSlot k, 0, 0)
  | .hrd k f => (bankSlot k, 0#8 ++ f.selector, 0)
  | .hwr k f v => (bankSlot k, 0#8 ++ f.selector, v)
  | .pnew k n => (bankSlot k, n, 0)
  | .pmarshal => (0, 0, 0)
  | .punmarshal => (0, 0, 0)
  | .epopen r => (addressValid r, 0, r.getD 0)
  | .send r => (addressValid r, 0, r.getD 0)
  | .recv => (0, 0, 0)
  | .close => (0, 0, 0)
  | .crd r => (r, 0, 0)
  | .cwr r v => (r, 0, v)
  | .ldb sp i => (sp, i, 0)
  | .stb sp i v => (sp, i, 0#24 ++ v)

/-- The command word of a command (R105, R110). -/
def encode (i : Instr) : Cmd :=
  Slots.toWord
    { op := i.opcode.code, a := i.operandSlots.1, b := i.operandSlots.2.1, d := i.operandSlots.2.2 }

end Sys2Proof
end

