-- ==== Sys2Proof/Config.lean ====
section
/-! DEFINITION. What is fixed for one block: the sizes (R6, R9), the type of its open parameters (R7, R8, R43), and the free
values (93_implementation_defined.md U1 to U3). -/

namespace Sys2Proof

/-- `HEADER_SIZE` (R6). -/
@[simp] def Config.headerSize : Nat := 28
/-- `NAME_SIZE` (R6), the capacity of `NRES` too (R62). -/
@[simp] def Config.nameSize : Nat := 16
/-- `MAX_PAYLOAD` (R6), the capacity `RP_CAP` of `RPMEM` too (R9). -/
@[simp] def Config.maxPayload : Nat := 1436
/-- `MAX_PACKET` (R6), the capacity `TX_CAP` of `TXBUF` too (R9). -/
@[simp] def Config.maxPacket : Nat := 1464
/-- `RXBUF_SIZE` (R6). -/
@[simp] def Config.rxbufSize : Nat := 1465
/-- `NB_CAP` (R9). -/
@[simp] def Config.nbCap : Nat := 64
/-- `TP_CAP` (R9). -/
@[simp] def Config.tpCap : Nat := 2048

/-- The three open parameters of the block (R7, R8): constants of one block, held in State as plain data that no step writes, so
that a statement about every state is one about every value of them (R136: "arbitrary partial functions with values below
2^32"). Log entries 9 and 10. -/
structure Config where
  /-- `MAGIC_CONST` (R7). -/
  magic : Word
  /-- `SR_TABLE`: a rate in hertz, or no entry, for each 5-bit index (R8, R136). -/
  srTable : Vector (Option Word) 32
  /-- `BPS_TABLE`: a rate in bits per second, or no entry, for each 5-bit index (R8, R136). -/
  bpsTable : Vector (Option Word) 32
deriving DecidableEq, Repr

/-- Free bytes: nothing is known of any of them (log entries 6, 8). -/
opaque Config.freeByte : Nat → Byte

/-- Free 32-bit words: nothing is known of any of them (log entries 6, 7). -/
opaque Config.freeWord : Nat → Word

/-- Free bits: nothing is known of any of them (log entry 7). -/
opaque Config.freeBit : Nat → Bool

end Sys2Proof
end

