-- ==== Sys2Proof/Machine/Params.lean ====
section
/-! DEFINITION. The spec's default values of the open parameters (R7, R136), all "from general knowledge, not in source":
PRESUMED, log entries 9 and 10. Only State.reset uses them; no rule and no statement rests on a particular value. -/

namespace Sys2Proof.Machine

/-- The default of `MAGIC_CONST` (R7, G5): wire bytes `56 42 41 4E`. -/
def defaultMagic : Word := 0x4E414256

/-- The default contents of `SR_TABLE` (R136, G1): indices 0..20 in hertz, no entry at 21..31. -/
def defaultSrTable : Vector (Option Word) 32 :=
  #v[some 6000, some 12000, some 24000, some 48000, some 96000, some 192000, some 384000, some 8000,
     some 16000, some 32000, some 64000, some 128000, some 256000, some 512000, some 11025, some 22050,
     some 44100, some 88200, some 176400, some 352800, some 705600, none, none, none,
     none, none, none, none, none, none, none, none]

/-- The default contents of `BPS_TABLE` (R136, G2): indices 0..24 in bits per second, no entry at 25..31. -/
def defaultBpsTable : Vector (Option Word) 32 :=
  #v[some 0, some 110, some 150, some 300, some 600, some 1200, some 2400, some 4800,
     some 9600, some 14400, some 19200, some 31250, some 38400, some 57600, some 115200, some 128000,
     some 230400, some 250000, some 256000, some 460800, some 921600, some 1000000, some 1500000, some 2000000,
     some 3000000, none, none, none, none, none, none, none]

/-- The parameters at their defaults. -/
def defaultConfig : Config := { magic := defaultMagic, srTable := defaultSrTable, bpsTable := defaultBpsTable }

end Sys2Proof.Machine
end

