-- ==== Sys2Proof/Machine/State.lean ====
section
/-! DEFINITION. The state of the block (10_state.md), the inputs it is offered and the outputs it gives, the reasons a step can
stop, and the state after reset (R45). -/

namespace Sys2Proof.Machine

/-- A byte space (R62): its listed bytes, addresses strictly rising, no zero byte listed; an unlisted address reads as zero, the
contents reset leaves (R45). Log entry 12. -/
abbrev Memory := List Host.Cell

/-- The 16 bytes of `STREAM_NAME`, first byte at index 0 (R27). -/
abbrev NameField := Vector Byte 16

/-- A header: seven fields, 28 bytes (R20). -/
structure Header where
  magic : Word
  formatSr : Byte
  formatNbs : Byte
  formatNbc : Byte
  formatBit : Byte
  streamName : NameField
  frameCounter : Word
deriving DecidableEq, Repr

/-- The header whose fields are all zero. -/
def Header.zero : Header :=
  { magic := 0, formatSr := 0, formatNbs := 0, formatNbc := 0, formatBit := 0
    streamName := Vector.replicate 16 0, frameCounter := 0 }

/-- The status codes (R113). -/
inductive Status where
  | ok
  /-- Never produced (R159, R229). -/
  | intSize
  | valSpfRange
  | valChRange
  | valPayloadTooLarge
  | valNilPacket
  | valNoDest
  | valIllegal
  | protoShort
  | protoBadMagic
  | protoOversize
  | trClosed
  | trWrite
  | trShortWrite
  | trRead
  | trClosedDuringRead
  | trEmpty
  | trOversize
  | trOpenFail
deriving DecidableEq, Repr

/-- The answer to a command (R112). -/
structure Response where
  status : Status
  value : Word
deriving DecidableEq, Repr

/-- A datagram offered to the network (R192). -/
structure Datagram where
  bytes : List Byte
  dest : Word
deriving DecidableEq, Repr

/-- The environment's answers to one command (R17). -/
structure Env where
  /-- `env.open_ok`: the open succeeded (R190). -/
  openOk : Bool
  /-- `env.wr_err`: the datagram write reported an error (R191). -/
  wrErr : Bool
  /-- `env.wr_n`: the number of bytes the datagram write accepted (R191); a number of the datagram's length or more stands for
  all of it (log entry 4). -/
  wrN : Nat
deriving DecidableEq, Repr

/-- What reaches the block from outside, one step each (R44, R72, R111). -/
inductive Input where
  /-- The host issues a command word; the environment will answer it with `env`. -/
  | command (w : Cmd) (env : Env)
  /-- `NET.DELIVER(bytes, src)` (R196). -/
  | deliver (bytes : List Byte) (src : Word)
  /-- `NET.RDERR(closed)` (R197). -/
  | readError (closed : Bool)
deriving DecidableEq, Repr

/-- The state of the block. The fields down to `raddrValid` but for `cfg` are the spec's (R20 to R40); `cfg` holds the open
parameters (R43), and the fields from `env` on are the model's own record of inputs, outputs and free values. -/
structure State where
  /-- The open parameters; no step writes them (log entries 9, 10). -/
  cfg : Config
  /-- `H[0]` (R21). -/
  h0 : Header
  /-- `H[1]` (R21, R32). -/
  h1 : Header
  /-- `H[2]` (R21, R33). -/
  h2 : Header
  /-- `NBUF`, 64 bytes (R30). -/
  nbuf : Memory
  /-- `NLEN`, legal 0..64 (R30). -/
  nlen : BitVec 7
  /-- `NRES`, 16 bytes (R31). -/
  nres : Memory
  /-- `NRESLEN`, 0..16 (R31). -/
  nresLen : BitVec 5
  /-- `TPKT.VALID` (R32). -/
  tpktValid : Bool
  /-- `TPKT.LEN`, legal 0..2048 (R32). -/
  tpktLen : BitVec 12
  /-- `TPMEM`, 2048 bytes (R32). -/
  tpmem : Memory
  /-- `RPKT.VALID` (R33). -/
  rpktValid : Bool
  /-- `RPKT.LEN`, 0..1436 (R33). -/
  rpktLen : BitVec 11
  /-- `RPMEM`, 1436 bytes (R33). -/
  rpmem : Memory
  /-- `TXBUF`, 1464 bytes (R34). -/
  txbuf : Memory
  /-- `TXLEN`, 0..1464 (R34). -/
  txlen : BitVec 11
  /-- `RXBUF`, 1465 bytes (R35). -/
  rxbuf : Memory
  /-- `RXLEN`, legal 0..1465 (R35). -/
  rxlen : BitVec 11
  /-- `EP.OPEN` (R36). -/
  epOpen : Bool
  /-- `EP.HAS_REMOTE` (R36). -/
  epHasRemote : Bool
  /-- `EP.REMOTE` (R36). -/
  epRemote : Word
  /-- `EP.RXPENDING` (R37). -/
  epRxPending : Bool
  /-- `EP.RXDONE` (R37). -/
  epRxDone : Bool
  /-- `RXSTATUS` (R38). -/
  rxStatus : Byte
  /-- `RXINFO` (R38). -/
  rxInfo : Word
  /-- `RADDR` (R39). -/
  raddr : Word
  /-- `RADDR_VALID` (R39). -/
  raddrValid : Bool
  /-- The environment's answers to the command being executed (R17; log entry 4). -/
  env : Env
  /-- The commands and network events still to come, next first (R44, R72; log entry 1). -/
  inputs : List Input
  /-- The responses given, oldest first (R112; log entry 2). -/
  responses : List Response
  /-- The datagrams offered to the network, oldest first (R192; log entry 3). -/
  offered : List Datagram
  /-- How many free values have been drawn (93 U1 to U3; log entry 6). -/
  draws : Nat
deriving DecidableEq, Repr

/-- The reasons a step faults. -/
inductive Fault where
  /-- Raised by step when its next input is a network event while `EP.RXPENDING = 0`: the event is not enabled and cannot occur
  (R72). Safe: the model goes no further where the spec has no step. Log entry 5. -/
  | networkEventNotEnabled
deriving DecidableEq, Repr

/-- The reasons a step is refused. -/
inductive Refusal where
  /-- Raised by exec's arm for an instruction that has no meaning yet; no arm of this model raises it. Safe. -/
  | notModelled (mnemonic : String)
deriving DecidableEq, Repr

/-- What a step answers. -/
abbrev Result := Host.Outcome State Fault Refusal

/-- The state after reset (R45, R250): everything the spec names is zero and the endpoint is Closed. The parameters are at the
spec's defaults (log entries 9, 10); the model's own fields hold no input, no output and no draw (log entries 1 to 4, 6). -/
def State.reset : State :=
  { cfg := defaultConfig
    h0 := Header.zero, h1 := Header.zero, h2 := Header.zero
    nbuf := [], nlen := 0, nres := [], nresLen := 0
    tpktValid := false, tpktLen := 0, tpmem := []
    rpktValid := false, rpktLen := 0, rpmem := []
    txbuf := [], txlen := 0, rxbuf := [], rxlen := 0
    epOpen := false, epHasRemote := false, epRemote := 0, epRxPending := false, epRxDone := false
    rxStatus := 0, rxInfo := 0, raddr := 0, raddrValid := false
    env := { openOk := true, wrErr := false, wrN := 1464 }
    inputs := [], responses := [], offered := [], draws := 0 }

end Sys2Proof.Machine
end

