-- ==== Sys2Proof/Machine/Flags.lean ====
section
/-! DEFINITION. The flag-like quantities of the block (R41): status codes and their classes, the predicate value, the packed
`EP_STATE` bits. There is no condition-code register. -/

namespace Sys2Proof.Machine

/-- The 8-bit code of a status (R113). -/
def Status.code : Status → Byte
  | .ok => 0x00
  | .intSize => 0x01
  | .valSpfRange => 0x41
  | .valChRange => 0x42
  | .valPayloadTooLarge => 0x43
  | .valNilPacket => 0x44
  | .valNoDest => 0x45
  | .valIllegal => 0x7F
  | .protoShort => 0x81
  | .protoBadMagic => 0x82
  | .protoOversize => 0x83
  | .trClosed => 0xC1
  | .trWrite => 0xC2
  | .trShortWrite => 0xC3
  | .trRead => 0xC4
  | .trClosedDuringRead => 0xC5
  | .trEmpty => 0xC6
  | .trOversize => 0xC7
  | .trOpenFail => 0xC8

/-- All 19 statuses (R113). -/
def Status.all : List Status :=
  [.ok, .intSize, .valSpfRange, .valChRange, .valPayloadTooLarge, .valNilPacket, .valNoDest, .valIllegal, .protoShort,
   .protoBadMagic, .protoOversize, .trClosed, .trWrite, .trShortWrite, .trRead, .trClosedDuringRead, .trEmpty, .trOversize,
   .trOpenFail]

/-- The class of a status code, `status[7:6]`: 0 none or internal, 1 validation, 2 protocol, 3 transport (R113, R221). -/
def statusClass (code : Byte) : BitVec 2 := code.extractLsb' 6 2

/-- A one-bit register or predicate as a 32-bit value. -/
def bit (b : Bool) : Word := if b then 1 else 0

/-- `EP_STATE`: bit 0 `EP.OPEN`, bit 1 `EP.HAS_REMOTE`, bit 2 `EP.RXPENDING`, bit 3 `EP.RXDONE` (R40, R210). -/
def State.epState (s : State) : Word :=
  bit s.epOpen ||| (bit s.epHasRemote <<< 1) ||| (bit s.epRxPending <<< 2) ||| (bit s.epRxDone <<< 3)

end Sys2Proof.Machine
end

