-- ==== Sys2Proof/Machine/Ops.lean ====
section
/-! DEFINITION. The shared operations: byte order, byte spaces, the name field, the header codec, responses, header banks, free
values and the completion of a receive. A failure of a command is `State.raise`; a failure of a receive is recorded by
`State.rxComplete`: the block has no other way of taking an exception, and nothing to return from (R16, R224, R232, R233). -/

namespace Sys2Proof.Machine

/-! ### Byte order (R60) -/

/-- The little-endian bytes of a 32-bit value (R60). -/
def le32 (v : Word) : List Byte :=
  [v.extractLsb' 0 8, v.extractLsb' 8 8, v.extractLsb' 16 8, v.extractLsb' 24 8]

/-- The 32-bit value of a 4-byte string (R60). -/
def unle32 (s : List Byte) : Word := s.getD 3 0 ++ s.getD 2 0 ++ s.getD 1 0 ++ s.getD 0 0

/-! ### Byte spaces (R15, R62) -/

/-- The byte at an address: zero where none is listed (R45). -/
def Memory.read : Memory → Nat → Byte
  | [], _ => 0
  | c :: m, x => if c.1 = x then c.2 else Memory.read m x

/-- `MemRead(S, a, n)` (R15). -/
def Memory.readBytes (m : Memory) (a n : Nat) : List Byte := (List.range n).map fun i => Memory.read m (a + i)

/-- The entries of a byte string placed at an address: its bytes that are not zero. -/
def Memory.place : Nat → List Byte → Memory
  | _, [] => []
  | a, b :: bs => if b = 0 then Memory.place (a + 1) bs else (a, b) :: Memory.place (a + 1) bs

/-- `MemWrite(S, a, n, bs)` with `n` the length of `bs` (R15), keeping the canonical form. -/
def Memory.write (m : Memory) (a : Nat) (bs : List Byte) : Memory :=
  m.filter (fun c => decide (c.1 < a)) ++ Memory.place a bs ++ m.filter (fun c => decide (a + bs.length ≤ c.1))

/-- Addresses strictly rising. -/
def Memory.rising : Memory → Bool
  | [] => true
  | c :: m => m.all (fun e => decide (c.1 < e.1)) && Memory.rising m

/-- The canonical form: addresses strictly rising, no entry equal to what an unlisted address reads as. -/
def Memory.wf (m : Memory) : Bool := Memory.rising m && m.all (fun c => c.2 != 0)

/-- Every listed address is below the capacity of the space (R62). -/
def Memory.within (cap : Nat) (m : Memory) : Bool := m.all (fun c => decide (c.1 < cap))

/-! ### The name field (R102) -/

/-- The 16 bytes a function gives. -/
def nameOfFn (f : Nat → Byte) : NameField := ⟨⟨(List.range 16).map f⟩, by simp⟩

/-- `name_set(s)`: the first 16 bytes of `s`, zero-filled (R102). -/
def nameSet (s : List Byte) : NameField := nameOfFn fun i => s.getD i 0

/-- `name_get(f)`: the bytes before the first zero byte, or all 16 (R102). -/
def nameGet (f : NameField) : List Byte := f.toList.takeWhile fun b => b != 0

/-! ### The header codec (R91, R92, R103) -/

/-- `enc_header(h)`: 28 bytes (R91). -/
def encHeader (h : Header) : List Byte :=
  le32 h.magic ++ [h.formatSr, h.formatNbs, h.formatNbc, h.formatBit] ++ h.streamName.toList ++ le32 h.frameCounter

/-- `dec_header(s)` of a 28-byte string (R92). -/
def decHeader (s : List Byte) : Header :=
  { magic := unle32 (s.take 4)
    formatSr := s.getD 4 0
    formatNbs := s.getD 5 0
    formatNbc := s.getD 6 0
    formatBit := s.getD 7 0
    streamName := nameOfFn fun i => s.getD (8 + i) 0
    frameCounter := unle32 (s.drop 24) }

/-- `enc_packet(h, p)`: the header bytes, then the payload bytes (R103). -/
def encPacket (h : Header) (p : List Byte) : List Byte := encHeader h ++ p

/-! ### Responses (R16, R112) -/

/-- `respond(status, value)` (R16, R112). -/
def State.respond (s : State) (st : Status) (v : Word) : State :=
  { s with responses := s.responses ++ [{ status := st, value := v }] }

/-- `raise E(info)` in a command: no state change of its own, the response is `(E, info)` (R16, R220, R224). -/
def State.raise (s : State) (e : Status) (info : Word) : State := s.respond e info

/-- A refused command: no state change, `(VAL_ILLEGAL, 0)` (R106, R228). -/
def State.refuse (s : State) : State := s.raise .valIllegal 0

/-- A datagram offered to the network (R192). -/
def State.offer (s : State) (bytes : List Byte) (dest : Word) : State :=
  { s with offered := s.offered ++ [{ bytes := bytes, dest := dest }] }

/-! ### Header banks (R21) -/

/-- `H[k]` (R14, R21). -/
def State.bank (s : State) : Bank → Header
  | .working => s.h0
  | .transmit => s.h1
  | .receive => s.h2

/-- `H[k] <- h` (R14, R21). -/
def State.setBank (s : State) (k : Bank) (h : Header) : State :=
  match k with
  | .working => { s with h0 := h }
  | .transmit => { s with h1 := h }
  | .receive => { s with h2 := h }

/-- The name operand `NBUF[0..NLEN-1]` (R30). -/
def State.nameOperand (s : State) : List Byte := Memory.readBytes s.nbuf 0 s.nlen.toNat

/-! ### Free values (93 U1 to U3) -/

/-- Seven free field values, drawn from index `d` on (U1). -/
def freeHeader (d : Nat) : Header :=
  { magic := Config.freeWord d
    formatSr := Config.freeByte d
    formatNbs := Config.freeByte (d + 1)
    formatNbc := Config.freeByte (d + 2)
    formatBit := Config.freeByte (d + 3)
    streamName := nameOfFn fun i => Config.freeByte (d + 4 + i)
    frameCounter := Config.freeWord (d + 1) }

/-- `H[k] <- unspecified` (R160, U1). -/
def State.forgetBank (s : State) (k : Bank) : State :=
  { s.setBank k (freeHeader s.draws) with draws := s.draws + 20 }

/-- `RADDR <- unspecified; RADDR_VALID <- unspecified` (R196, U2). -/
def State.forgetSender (s : State) : State :=
  { s with raddr := Config.freeWord s.draws, raddrValid := Config.freeBit s.draws, draws := s.draws + 1 }

/-- `RXBUF[0..1464] <- unspecified` (R194, U3). -/
def State.forgetRxbuf (s : State) : State :=
  { s with
    rxbuf := Memory.write s.rxbuf 0 ((List.range Config.rxbufSize).map fun i => Config.freeByte (s.draws + i))
    draws := s.draws + Config.rxbufSize }

/-! ### The flat transmit buffer (R34) -/

/-- `MemWrite(TXBUF, 0, n, bs); TXLEN <- n` with `n` the length of `bs` (R158, R181, R191). -/
def State.compose (s : State) (bs : List Byte) : State :=
  { s with txbuf := Memory.write s.txbuf 0 bs, txlen := BitVec.ofNat 11 bs.length }

/-- The payload of the transmit packet, by reference: `TPMEM[0..TPKT.LEN-1]` as it is now (R32, R69). -/
def State.payload (s : State) : List Byte := Memory.readBytes s.tpmem 0 s.tpktLen.toNat

/-- The flat bytes of the transmit packet: header, then payload (R103, R181). -/
def State.flatPacket (s : State) : List Byte := encPacket s.h1 s.payload

/-! ### Splitting and decoding the flat receive buffer (R183) -/

/-- `RXLEN` as a 32-bit information value (R114). -/
def State.rxlenInfo (s : State) : Word := s.rxlen.setWidth 32

/-- The header that the first 28 bytes of `RXBUF` decode to: the staging header (R42, R160, R183). -/
def State.stagedHeader (s : State) : Header := decHeader (Memory.readBytes s.rxbuf 0 Config.headerSize)

/-- `unmarshal_packet()` (R183): the status and information value, and the state after. -/
def unmarshalPacket (s : State) : (Status × Word) × State :=
  let n := s.rxlen.toNat
  if n < Config.headerSize then ((.protoShort, s.rxlenInfo), { s with rpktValid := false })
  else if n > Config.maxPacket then ((.protoOversize, s.rxlenInfo), { s with rpktValid := false })
  else if s.stagedHeader.magic ≠ s.cfg.magic then
    ((.protoBadMagic, s.stagedHeader.magic), { s with rpktValid := false })
  else
    ((.ok, BitVec.ofNat 32 (n - Config.headerSize)),
     { s with
       h2 := s.stagedHeader
       rpktLen := BitVec.ofNat 11 (n - Config.headerSize)
       rpmem := Memory.write s.rpmem 0 (Memory.readBytes s.rxbuf Config.headerSize (n - Config.headerSize))
       rpktValid := true })

/-! ### Completion of a receive (R194) -/

/-- `rx_complete(s, v)` (R194). -/
def State.rxComplete (s : State) (st : Status) (v : Word) : State :=
  { s with rxStatus := st.code, rxInfo := v, epRxPending := false, epRxDone := true }

/-- `rx_fail(s)`: a receive that read nothing usable (R194). -/
def State.rxFail (s : State) (st : Status) : State :=
  { s.forgetRxbuf with rxlen := 0, rpktValid := false, raddrValid := false }.rxComplete st 0

end Sys2Proof.Machine
end

