-- ==== Sys2Proof/Machine/Operands.lean ====
section
/-! DEFINITION. The operand forms: bit fields of the two format bytes (R94 to R97), rate lookup (R136, R137), header field access
(R108), control registers (R40) and byte spaces (R62). -/

namespace Sys2Proof.Machine

/-! ### Bit fields of the format bytes (R94, R96, R97) -/

/-- `sp_of(b)`: the sub-protocol in place (R94). -/
def spOf (b : Byte) : Byte := b &&& 0xE0

/-- `sr_of(b)`: the rate index (R94). -/
def srOf (b : Byte) : Byte := b &&& 0x1F

/-- `dt_of(b)`: the data type (R96). -/
def dtOf (b : Byte) : Byte := b &&& 0x07

/-- `codec_of(b)`: the codec in place (R96). -/
def codecOf (b : Byte) : Byte := b &&& 0xF0

/-- The in-place value of a sub-protocol tag, `tag << 5` (R94, R95). -/
def spInPlace (tag : BitVec 3) : Byte := tag.setWidth 8 <<< 5

/-- The mask-and-compare predicate of a sub-protocol tag (R131 to R134). -/
def isSp (tag : BitVec 3) (b : Byte) : Word := bit (spOf b == spInPlace tag)

/-- `dt_size(t)`: the byte width of a data type, 0 for the three bit-packed types (R97). -/
def dtSize (t : BitVec 3) : Word :=
  match t.toNat with
  | 0 => 1
  | 1 => 2
  | 2 => 0
  | 3 => 4
  | 4 => 4
  | 5 => 8
  | _ => 0

/-- The rate of an index in a table, 0 where it has no entry (R136, R137). -/
def rateIn (t : Vector (Option Word) 32) (idx : BitVec 5) : Word := (t[idx.toNat]'idx.isLt).getD 0

/-- The rate of a sub-protocol tag and index (R137). -/
def rateOf (c : Config) (tag : BitVec 3) (idx : BitVec 5) : Word :=
  if tag = 0 then rateIn c.srTable idx
  else if tag = 1 ∨ tag = 2 then rateIn c.bpsTable idx
  else 0

/-! ### Header fields (R108) -/

/-- The value of a header field, zero-extended (R108, R161). -/
def Header.field (h : Header) : Field → Word
  | .magic => h.magic
  | .formatSr => h.formatSr.setWidth 32
  | .formatNbs => h.formatNbs.setWidth 32
  | .formatNbc => h.formatNbc.setWidth 32
  | .formatBit => h.formatBit.setWidth 32
  | .frameCounter => h.frameCounter
  | .name i => (h.streamName[i.toNat]'i.isLt).setWidth 32

/-- The header with one field written (R108, R162). -/
def Header.setField (h : Header) (f : Field) (v : Word) : Header :=
  match f with
  | .magic => { h with magic := v }
  | .formatSr => { h with formatSr := v.setWidth 8 }
  | .formatNbs => { h with formatNbs := v.setWidth 8 }
  | .formatNbc => { h with formatNbc := v.setWidth 8 }
  | .formatBit => { h with formatBit := v.setWidth 8 }
  | .frameCounter => { h with frameCounter := v }
  | .name i => { h with streamName := h.streamName.set i.toNat (v.setWidth 8) i.isLt }

/-- A count in the domain of the "minus one" bytes: 1..256 (R100, R154, R156). -/
def countInRange (n : Half) : Bool := decide (1 ≤ n.toNat) && decide (n.toNat ≤ 256)

/-- The stored byte of a count: `trunc_8(n - 1)` (R100). -/
def storedCount (n : Half) : Byte := (n - 1).setWidth 8

/-- The count of a stored byte: `zext_32(v) + 1`, which does not wrap (R100). -/
def countOf (v : Byte) : Word := v.setWidth 32 + 1

/-! ### Control registers (R40) -/

/-- The fourteen control registers (R40). -/
inductive CReg where
  | epState | epRemote | nlen | nresLen | tpktValid | tpktLen | rpktValid | rpktLen
  | txlen | rxlen | rxStatus | rxInfo | raddr | raddrValid
deriving DecidableEq, Repr

/-- The register of a number; there is none above 0x0D (R40). -/
def cregOf (r : Byte) : Option CReg :=
  match r.toNat with
  | 0x00 => some .epState
  | 0x01 => some .epRemote
  | 0x02 => some .nlen
  | 0x03 => some .nresLen
  | 0x04 => some .tpktValid
  | 0x05 => some .tpktLen
  | 0x06 => some .rpktValid
  | 0x07 => some .rpktLen
  | 0x08 => some .txlen
  | 0x09 => some .rxlen
  | 0x0A => some .rxStatus
  | 0x0B => some .rxInfo
  | 0x0C => some .raddr
  | 0x0D => some .raddrValid
  | _ => none

/-- The value of a control register, zero-extended to 32 bits (R40). -/
def State.readReg (s : State) : CReg → Word
  | .epState => s.epState
  | .epRemote => s.epRemote
  | .nlen => s.nlen.setWidth 32
  | .nresLen => s.nresLen.setWidth 32
  | .tpktValid => bit s.tpktValid
  | .tpktLen => s.tpktLen.setWidth 32
  | .rpktValid => bit s.rpktValid
  | .rpktLen => s.rpktLen.setWidth 32
  | .txlen => s.txlen.setWidth 32
  | .rxlen => s.rxlen.setWidth 32
  | .rxStatus => s.rxStatus.setWidth 32
  | .rxInfo => s.rxInfo
  | .raddr => s.raddr
  | .raddrValid => bit s.raddrValid

/-- A write of a control register; `none` where it is refused: read-only, an illegal value, or `RXLEN` while a receive is pending
(R40, R211). -/
def State.writeReg (s : State) (r : CReg) (v : Word) : Option State :=
  match r with
  | .nlen => if v.toNat > 64 then none else some { s with nlen := v.setWidth 7 }
  | .tpktValid => if v.toNat > 1 then none else some { s with tpktValid := v == 1 }
  | .tpktLen => if v.toNat > 2048 then none else some { s with tpktLen := v.setWidth 12 }
  | .rxlen => if v.toNat > 1465 ∨ s.epRxPending = true then none else some { s with rxlen := v.setWidth 11 }
  | .epState => none
  | .epRemote => none
  | .nresLen => none
  | .rpktValid => none
  | .rpktLen => none
  | .txlen => none
  | .rxStatus => none
  | .rxInfo => none
  | .raddr => none
  | .raddrValid => none

/-! ### Byte spaces (R62) -/

/-- The six byte spaces (R62). -/
inductive Space where
  | nbuf | nres | tpmem | rpmem | txbuf | rxbuf
deriving DecidableEq, Repr

/-- The space of a number; 6..255 do not exist (R62). -/
def spaceOf (n : Byte) : Option Space :=
  match n.toNat with
  | 0 => some .nbuf
  | 1 => some .nres
  | 2 => some .tpmem
  | 3 => some .rpmem
  | 4 => some .txbuf
  | 5 => some .rxbuf
  | _ => none

/-- The capacity of a space in bytes (R62). -/
def Space.capacity : Space → Nat
  | .nbuf => Config.nbCap
  | .nres => Config.nameSize
  | .tpmem => Config.tpCap
  | .rpmem => Config.maxPayload
  | .txbuf => Config.maxPacket
  | .rxbuf => Config.rxbufSize

/-- The contents of a space. -/
def State.space (s : State) : Space → Memory
  | .nbuf => s.nbuf
  | .nres => s.nres
  | .tpmem => s.tpmem
  | .rpmem => s.rpmem
  | .txbuf => s.txbuf
  | .rxbuf => s.rxbuf

/-- The state with the contents of a space replaced. -/
def State.setSpace (s : State) (sp : Space) (m : Memory) : State :=
  match sp with
  | .nbuf => { s with nbuf := m }
  | .nres => { s with nres := m }
  | .tpmem => { s with tpmem := m }
  | .rpmem => { s with rpmem := m }
  | .txbuf => { s with txbuf := m }
  | .rxbuf => { s with rxbuf := m }

/-- The host may write the space now: `NBUF` and `TPMEM` always, `RXBUF` while no receive is pending (R62, R213). -/
def State.hostMayWrite (s : State) : Space → Bool
  | .nbuf => true
  | .tpmem => true
  | .rxbuf => !s.epRxPending
  | .nres => false
  | .rpmem => false
  | .txbuf => false

end Sys2Proof.Machine
end

