-- ==== Sys2Proof/Machine/FieldModel.lean ====
section
/-! DEFINITION. The field model commands (40_field_model.md). Each is a pure function of its command word, and `GETRATE` of the
two tables as well; none can fail (R141). -/

namespace Sys2Proof.Machine

/-- `GETSP` (R130). -/
def execGetsp (x : Byte) (s : State) : Result := .next (s.respond .ok ((spOf x).setWidth 32))

/-- `ISAUDIO` (R131). -/
def execIsaudio (x : Byte) (s : State) : Result := .next (s.respond .ok (isSp 0 x))

/-- `ISSERIAL` (R132). -/
def execIsserial (x : Byte) (s : State) : Result := .next (s.respond .ok (isSp 1 x))

/-- `ISTEXT` (R133). -/
def execIstext (x : Byte) (s : State) : Result := .next (s.respond .ok (isSp 2 x))

/-- `ISSERVICE` (R134). -/
def execIsservice (x : Byte) (s : State) : Result := .next (s.respond .ok (isSp 3 x))

/-- `GETSR` (R135). -/
def execGetsr (x : Byte) (s : State) : Result := .next (s.respond .ok ((srOf x).setWidth 32))

/-- `GETRATE` (R137). -/
def execGetrate (sp : BitVec 3) (idx : BitVec 5) (s : State) : Result := .next (s.respond .ok (rateOf s.cfg sp idx))

/-- `GETDT` (R138). -/
def execGetdt (x : Byte) (s : State) : Result := .next (s.respond .ok ((dtOf x).setWidth 32))

/-- `DTSIZE` (R139). -/
def execDtsize (dt : BitVec 3) (s : State) : Result := .next (s.respond .ok (dtSize dt))

/-- `GETCODEC` (R140): the sub-protocol operand is decoded and then ignored. -/
def execGetcodec (x : Byte) (_sp : BitVec 3) (s : State) : Result := .next (s.respond .ok ((codecOf x).setWidth 32))

end Sys2Proof.Machine
end

