-- ==== Sys2Proof/Machine/HeaderCodec.lean ====
section
/-! DEFINITION. The header codec commands (41_header_codec.md). None looks at the sub-protocol of its header (R163). -/

namespace Sys2Proof.Machine

/-- The header `HNEW` constructs (R150). -/
def newHeader (magic : Word) (sp : BitVec 3) (name : List Byte) : Header :=
  { magic := magic, formatSr := spInPlace sp, formatNbs := 0, formatNbc := 0, formatBit := 0
    streamName := nameSet name, frameCounter := 0 }

/-- `HNEW` (R150). -/
def execHnew (k : Bank) (sp : BitVec 3) (s : State) : Result :=
  .next ((s.setBank k (newHeader s.cfg.magic sp s.nameOperand)).respond .ok 0)

/-- `SETNAME` (R151). -/
def execSetname (k : Bank) (s : State) : Result :=
  .next ((s.setBank k { s.bank k with streamName := nameSet s.nameOperand }).respond .ok 0)

/-- `GETNAME` (R152): the name, zero-filled to 16 bytes, goes to `NRES`. -/
def execGetname (k : Bank) (s : State) : Result :=
  let name := nameGet (s.bank k).streamName
  .next
    ({ s with nres := Memory.write s.nres 0 (nameSet name).toList, nresLen := BitVec.ofNat 5 name.length }.respond .ok
      (BitVec.ofNat 32 name.length))

/-- `GETSPF` (R153). -/
def execGetspf (k : Bank) (s : State) : Result := .next (s.respond .ok (countOf (s.bank k).formatNbs))

/-- `SETSPF` (R154). -/
def execSetspf (k : Bank) (n : Half) (s : State) : Result :=
  .next
    (if countInRange n then (s.setBank k { s.bank k with formatNbs := storedCount n }).respond .ok 0
     else s.raise .valSpfRange (n.setWidth 32))

/-- `GETCH` (R155). -/
def execGetch (k : Bank) (s : State) : Result := .next (s.respond .ok (countOf (s.bank k).formatNbc))

/-- `SETCH` (R156). -/
def execSetch (k : Bank) (n : Half) (s : State) : Result :=
  .next
    (if countInRange n then (s.setBank k { s.bank k with formatNbc := storedCount n }).respond .ok 0
     else s.raise .valChRange (n.setWidth 32))

/-- `SETAFMT` (R157): sub-protocol Audio, reserved bit 3 forced to 0; `b[11]` is discarded. -/
def execSetafmt (k : Bank) (idx : BitVec 5) (dt : BitVec 3) (_rsv : BitVec 1) (codec : BitVec 4) (s : State) : Result :=
  .next
    ((s.setBank k
      { s.bank k with
        formatSr := idx.setWidth 8
        formatBit := ((codec.setWidth 8 <<< 4) ||| dt.setWidth 8) &&& 0xF7 }).respond .ok 0)

/-- `HMARSHAL` (R158, R159). -/
def execHmarshal (k : Bank) (s : State) : Result :=
  .next ((s.compose (encHeader (s.bank k))).respond .ok 28)

/-- `HUNMARSHAL` (R160). -/
def execHunmarshal (k : Bank) (s : State) : Result :=
  .next
    (if s.rxlen.toNat < Config.headerSize then s.raise .protoShort s.rxlenInfo
     else if s.stagedHeader.magic ≠ s.cfg.magic then (s.forgetBank k).raise .protoBadMagic s.stagedHeader.magic
     else (s.setBank k s.stagedHeader).respond .ok 0)

/-- `HRD` (R161). -/
def execHrd (k : Bank) (f : Field) (s : State) : Result := .next (s.respond .ok ((s.bank k).field f))

/-- `HWR` (R162); a value too wide for an 8-bit field is refused (R106, R110; log entry 11). -/
def execHwr (k : Bank) (f : Field) (v : Word) (s : State) : Result :=
  .next (if f.fits v then (s.setBank k ((s.bank k).setField f v)).respond .ok 0 else s.refuse)

end Sys2Proof.Machine
end

