-- ==== Sys2Proof/Machine/HostAccess.lean ====
section
/-! DEFINITION. The host access commands (44_host_access.md): one register value or one byte each (R214). -/

namespace Sys2Proof.Machine

/-- `CRD` (R210). -/
def execCrd (r : Byte) (s : State) : Result :=
  .next
    (match cregOf r with
     | some c => s.respond .ok (s.readReg c)
     | none => s.refuse)

/-- `CWR` (R211). -/
def execCwr (r : Byte) (v : Word) (s : State) : Result :=
  .next
    (match (cregOf r).bind fun c => s.writeReg c v with
     | some t => t.respond .ok 0
     | none => s.refuse)

/-- `LDB` (R212). -/
def execLdb (sp : Byte) (i : Half) (s : State) : Result :=
  .next
    (match spaceOf sp with
     | some p => if i.toNat < p.capacity then s.respond .ok ((Memory.read (s.space p) i.toNat).setWidth 32) else s.refuse
     | none => s.refuse)

/-- `STB` (R213). -/
def execStb (sp : Byte) (i : Half) (v : Byte) (s : State) : Result :=
  .next
    (match spaceOf sp with
     | some p =>
       if s.hostMayWrite p = true ∧ i.toNat < p.capacity then
         (s.setSpace p (Memory.write (s.space p) i.toNat [v])).respond .ok 0
       else s.refuse
     | none => s.refuse)

end Sys2Proof.Machine
end

