-- ==== Sys2Proof/Machine/PacketFraming.lean ====
section
/-! DEFINITION. The packet framing commands (42_packet_framing.md). Only lengths and, on decode, the magic are checked (R184, R185). -/

namespace Sys2Proof.Machine

/-- `PNEW` (R180): the header by value, the payload by reference. -/
def execPnew (k : Bank) (n : Half) (s : State) : Result :=
  .next
    (if n.toNat > Config.maxPayload then s.raise .valPayloadTooLarge (n.setWidth 32)
     else { s with h1 := s.bank k, tpktLen := n.setWidth 12, tpktValid := true }.respond .ok 0)

/-- `PMARSHAL` (R181). -/
def execPmarshal (s : State) : Result :=
  .next
    (if s.tpktValid = false then s.raise .valNilPacket 0
     else if s.tpktLen.toNat > Config.maxPayload then s.raise .valPayloadTooLarge (s.tpktLen.setWidth 32)
     else (s.compose s.flatPacket).respond .ok (BitVec.ofNat 32 (Config.headerSize + s.tpktLen.toNat)))

/-- `PUNMARSHAL` (R183). -/
def execPunmarshal (s : State) : Result :=
  let r := unmarshalPacket s
  .next (r.2.respond r.1.1 r.1.2)

end Sys2Proof.Machine
end

