-- ==== Sys2Proof/Machine/Packetizer.lean ====
section
/-! DEFINITION. The packetizer commands and the two network events (43_packetizer.md). -/

namespace Sys2Proof.Machine

/-- `EPOPEN` (R190). `none` is `has_remote = 0`. -/
def execEpopen (remote : Option Word) (s : State) : Result :=
  .next
    (if s.epOpen then s.refuse
     else if s.env.openOk = false then s.raise .trOpenFail 0
     else { s with epOpen := true, epHasRemote := remote.isSome, epRemote := remote.getD 0 }.respond .ok 0)

/-- The destination of a datagram: the explicit address, else the associated remote, else none (R191). -/
def State.destination (s : State) : Option Word → Option Word
  | some addr => some addr
  | none => if s.epHasRemote then some s.epRemote else none

/-- The write of the composed datagram and its outcome (R191 from "no state has changed up to here" on; R192). -/
def sendTo (dest : Word) (s : State) : State :=
  let sent := (s.compose s.flatPacket).offer s.flatPacket dest
  let n := Config.headerSize + s.tpktLen.toNat
  if s.env.wrErr then sent.raise .trWrite 0
  else if s.env.wrN < n then sent.raise .trShortWrite (BitVec.ofNat 32 s.env.wrN)
  else sent.respond .ok (BitVec.ofNat 32 n)

/-- `SEND` (R191). `none` is `addr_valid = 0`. -/
def execSend (addr : Option Word) (s : State) : Result :=
  .next
    (if s.epOpen = false then s.raise .trClosed 0
     else if s.tpktValid = false then s.raise .valNilPacket 0
     else if s.tpktLen.toNat > Config.maxPayload then s.raise .valPayloadTooLarge (s.tpktLen.setWidth 32)
     else match s.destination addr with
       | none => s.raise .valNoDest 0
       | some dest => sendTo dest s)

/-- `RECV` (R193): the one command whose failure test comes before its refusal (R230). -/
def execRecv (s : State) : Result :=
  .next
    (if s.epOpen = false then s.raise .trClosed 0
     else if s.epRxPending then s.refuse
     else { s with epRxPending := true, epRxDone := false }.respond .ok 0)

/-- `CLOSE` (R195). -/
def execClose (s : State) : Result :=
  .next
    (if s.epOpen = false then s.respond .ok 0
     else
      let closed := { s with epOpen := false, epHasRemote := false, epRemote := 0 }
      (if s.epRxPending then closed.rxFail .trClosedDuringRead else closed).respond .ok 0)

/-- `NET.DELIVER(bytes, src)` on a pending receive (R196). -/
def netDeliver (bytes : List Byte) (src : Word) (s : State) : State :=
  let n := min bytes.length Config.rxbufSize
  let s := { s with rxbuf := Memory.write s.rxbuf 0 (bytes.take Config.rxbufSize), rxlen := BitVec.ofNat 11 n }
  if n = 0 then ({ s with rpktValid := false }.forgetSender).rxComplete .trEmpty 0
  else if n > Config.maxPacket then ({ s with rpktValid := false }.forgetSender).rxComplete .trOversize (BitVec.ofNat 32 n)
  else
    let r := unmarshalPacket s
    { r.2 with raddr := src, raddrValid := true }.rxComplete r.1.1 r.1.2

/-- `NET.RDERR(closed)` on a pending receive (R197). -/
def netReadError (closed : Bool) (s : State) : State :=
  s.rxFail (if closed then .trClosedDuringRead else .trRead)

end Sys2Proof.Machine
end

