-- ==== Sys2Proof/Machine/Dispatch.lean ====
section
/-! DEFINITION. exec: one arm per command, each one direct call of its meaning. -/

namespace Sys2Proof.Machine

/-- The effect of one command (R110 names the rule of each). -/
def exec (i : Instr) (s : State) : Host.Outcome State Fault Refusal :=
  match i with
  | .getsp x => Sys2Proof.Machine.execGetsp x s
  | .isaudio x => Sys2Proof.Machine.execIsaudio x s
  | .isserial x => Sys2Proof.Machine.execIsserial x s
  | .istext x => Sys2Proof.Machine.execIstext x s
  | .isservice x => Sys2Proof.Machine.execIsservice x s
  | .getsr x => Sys2Proof.Machine.execGetsr x s
  | .getrate sp idx => Sys2Proof.Machine.execGetrate sp idx s
  | .getdt x => Sys2Proof.Machine.execGetdt x s
  | .dtsize dt => Sys2Proof.Machine.execDtsize dt s
  | .getcodec x sp => Sys2Proof.Machine.execGetcodec x sp s
  | .hnew k sp => Sys2Proof.Machine.execHnew k sp s
  | .setname k => Sys2Proof.Machine.execSetname k s
  | .getname k => Sys2Proof.Machine.execGetname k s
  | .getspf k => Sys2Proof.Machine.execGetspf k s
  | .setspf k n => Sys2Proof.Machine.execSetspf k n s
  | .getch k => Sys2Proof.Machine.execGetch k s
  | .setch k n => Sys2Proof.Machine.execSetch k n s
  | .setafmt k idx dt rsv codec => Sys2Proof.Machine.execSetafmt k idx dt rsv codec s
  | .hmarshal k => Sys2Proof.Machine.execHmarshal k s
  | .hunmarshal k => Sys2Proof.Machine.execHunmarshal k s
  | .hrd k f => Sys2Proof.Machine.execHrd k f s
  | .hwr k f v => Sys2Proof.Machine.execHwr k f v s
  | .pnew k n => Sys2Proof.Machine.execPnew k n s
  | .pmarshal => Sys2Proof.Machine.execPmarshal s
  | .punmarshal => Sys2Proof.Machine.execPunmarshal s
  | .epopen remote => Sys2Proof.Machine.execEpopen remote s
  | .send addr => Sys2Proof.Machine.execSend addr s
  | .recv => Sys2Proof.Machine.execRecv s
  | .close => Sys2Proof.Machine.execClose s
  | .crd r => Sys2Proof.Machine.execCrd r s
  | .cwr r v => Sys2Proof.Machine.execCwr r v s
  | .ldb sp x => Sys2Proof.Machine.execLdb sp x s
  | .stb sp x v => Sys2Proof.Machine.execStb sp x v s

end Sys2Proof.Machine
end

