-- ==== Sys2Proof/Machine/Fetch.lean ====
section
/-! DEFINITION. Taking the next input: a command word of the host, or an event of the network. -/

namespace Sys2Proof.Machine

/-- A command word (R106): the decoded command runs; a word that does not decode is refused, `(VAL_ILLEGAL, 0)` with no state
change. -/
def runWord (w : Cmd) (s : State) : Result :=
  match decode w with
  | .ok i => exec i s
  | .error _ => .next s.refuse

/-- One input: a command with the environment's answers to it, or a network event, enabled only while `EP.RXPENDING = 1`
(R72). -/
def takeInput (i : Input) (s : State) : Result :=
  match i with
  | .command w env => runWord w { s with env := env }
  | .deliver bytes src => if s.epRxPending then .next (netDeliver bytes src s) else .fault .networkEventNotEnabled
  | .readError closed => if s.epRxPending then .next (netReadError closed s) else .fault .networkEventNotEnabled

/-- The input that issues a command word, answered by the environment as the state last says. -/
def commandInput (s : State) (w : Nat) : Input := .command (BitVec.ofNat 64 w) s.env

end Sys2Proof.Machine
end

