-- ==== Sys2Proof/Machine/Step.lean ====
section
/-! DEFINITION. One step of the block, and how a command word is placed where the next step takes it. -/

namespace Sys2Proof.Machine

/-- One step takes the next input; with none the block waits and nothing changes (R44, R66, R71, R252; log entry 1). -/
def step (s : State) : Result :=
  match s.inputs with
  | [] => .next s
  | i :: rest => takeInput i { s with inputs := rest }

/-- The state with an opcode-table word as the host's next command. -/
def State.withFetchWord (s : State) (_nbits w : Nat) : State := { s with inputs := commandInput s w :: s.inputs }

end Sys2Proof.Machine
end

