-- ==== Sys2Proof/Safety.lean ====
section
/-! DEFINITION. The terms the statements use: the invariant of the machine (R37, R46), the encoding of a command as numbers (R105,
R110), the wire image of a header byte by byte (R90), and the groups of commands the spec names. -/

namespace Sys2Proof.Machine

/-! ### The invariant -/

/-- What holds at reset and after every step (R46, R37), with the canonical form of the six byte spaces (R62), the zero fill of
`NRES` (R31), and that `RXSTATUS` holds a status code (R40). -/
structure Inv (s : State) : Prop where
  /-- `NLEN <= 64` (R46). -/
  nlen_le : s.nlen.toNat ≤ 64
  /-- `NRESLEN <= 16` (R46). -/
  nresLen_le : s.nresLen.toNat ≤ 16
  /-- `TPKT.LEN <= 2048` (R46). -/
  tpktLen_le : s.tpktLen.toNat ≤ 2048
  /-- `RPKT.LEN <= 1436` (R46). -/
  rpktLen_le : s.rpktLen.toNat ≤ 1436
  /-- `TXLEN <= 1464` (R46). -/
  txlen_le : s.txlen.toNat ≤ 1464
  /-- `RXLEN <= 1465` (R46). -/
  rxlen_le : s.rxlen.toNat ≤ 1465
  /-- `EP.RXPENDING = 1` implies `EP.OPEN = 1` (R37, R46). -/
  pending_open : s.epRxPending = true → s.epOpen = true
  /-- `EP.RXPENDING = 1` implies `EP.RXDONE = 0` (R37). -/
  pending_not_done : s.epRxPending = true → s.epRxDone = false
  /-- `EP.HAS_REMOTE = 1` implies `EP.OPEN = 1` (R46). -/
  remote_open : s.epHasRemote = true → s.epOpen = true
  /-- Each space is in canonical form and lists no address at or beyond its capacity (R62). -/
  spaces : ∀ p : Space, Memory.wf (s.space p) = true ∧ Memory.within p.capacity (s.space p) = true
  /-- `NRES[NRESLEN..15]` are zero (R31). -/
  nres_tail : ∀ i, s.nresLen.toNat ≤ i → Memory.read s.nres i = 0
  /-- `RXSTATUS` holds a status code (R40, R113). -/
  status_legal : ∃ st : Status, s.rxStatus = st.code

/-! ### Encodings as numbers -/

/-- `w = op | a << 8 | b << 16 | d << 32` (R105). -/
def commandWord (op a b d : Nat) : Cmd := BitVec.ofNat 64 (op + a * 2 ^ 8 + b * 2 ^ 16 + d * 2 ^ 32)

/-- A command is what one command word decodes to, and no other word does (R106, R110). -/
def EncodedAs (i : Instr) (op a b d : Nat) : Prop := ∀ w : Cmd, decode w = .ok i ↔ w = commandWord op a b d

/-- The number of a bank (R107). -/
def bankNumber : Bank → Nat
  | .working => 0
  | .transmit => 1
  | .receive => 2

/-- The selector of a header field (R108). -/
def selectorNumber : Field → Nat
  | .magic => 0
  | .formatSr => 1
  | .formatNbs => 2
  | .formatNbc => 3
  | .formatBit => 4
  | .frameCounter => 5
  | .name i => 16 + i.toNat

/-- The operations whose `a` slot carries a bank number (R107, R110). -/
def takesBank : List Opcode :=
  [.hnew, .setname, .getname, .getspf, .setspf, .getch, .setch, .setafmt, .hmarshal, .hunmarshal, .hrd, .hwr, .pnew]

/-- The words R110 defines: one row's mask and match, and the conditions a mask cannot express (bank 3, undefined selectors, `d`
MBZ when `a[0] = 0`, `d[31:8]` MBZ for an 8-bit field). The register, space and index conditions are the commands' own. -/
def DefinedWord (w : Cmd) : Prop :=
  ∃ o : Opcode,
    w &&& o.mask = o.matchWord ∧
    (o ∈ takesBank → w.extractLsb' 8 2 ≠ 3) ∧
    (o = .hrd ∨ o = .hwr → (w.extractLsb' 16 8).toNat < 6 ∨ (16 ≤ (w.extractLsb' 16 8).toNat ∧ (w.extractLsb' 16 8).toNat < 32)) ∧
    (o = .hwr → (w.extractLsb' 16 8).toNat ≠ 0 → (w.extractLsb' 16 8).toNat ≠ 5 → w.extractLsb' 40 24 = 0) ∧
    (o = .epopen ∨ o = .send → w.extractLsb' 8 1 = 0 → w.extractLsb' 32 32 = 0)

/-! ### The wire image of a header -/

/-- Byte `i` of a serialised header, by the wire table (R90, R91); 0 beyond the 28 bytes. -/
def Header.wireByte (h : Header) (i : Nat) : Byte :=
  if i < 4 then h.magic.extractLsb' (8 * i) 8
  else if i = 4 then h.formatSr
  else if i = 5 then h.formatNbs
  else if i = 6 then h.formatNbc
  else if i = 7 then h.formatBit
  else if i < 24 then h.streamName.toList.getD (i - 8) 0
  else if i < 28 then h.frameCounter.extractLsb' (8 * (i - 24)) 8
  else 0

/-- A header whose wire image is the first 28 bytes of a byte space. -/
def Header.ImageIn (h : Header) (m : Memory) : Prop := ∀ i < 28, h.wireByte i = Memory.read m i

/-! ### Groups of commands -/

/-- The ten field model commands (R141). -/
def isFieldModel : Instr → Bool
  | .getsp _ => true
  | .isaudio _ => true
  | .isserial _ => true
  | .istext _ => true
  | .isservice _ => true
  | .getsr _ => true
  | .getrate _ _ => true
  | .getdt _ => true
  | .dtsize _ => true
  | .getcodec _ _ => true
  | _ => false

/-- The reads of R67: `LDB`, `CRD`, `HRD`, and every `GET`/`IS` command but `GETNAME`. -/
def isPureRead (i : Instr) : Bool :=
  isFieldModel i ||
    match i with
    | .getspf _ => true
    | .getch _ => true
    | .hrd _ _ => true
    | .crd _ => true
    | .ldb _ _ => true
    | _ => false

/-- The commands that may write bank `k` (R29). -/
def writesBank (k : Bank) : Instr → Bool
  | .hnew j _ => j == k
  | .setname j => j == k
  | .setspf j _ => j == k
  | .setch j _ => j == k
  | .setafmt j _ _ _ _ => j == k
  | .hunmarshal j => j == k
  | .hwr j _ _ => j == k
  | .pnew _ _ => k == .transmit
  | .punmarshal => k == .receive
  | _ => false

/-- The commands that may write a `FRAME_COUNTER` (R28). -/
def writesCounter : Instr → Bool
  | .hnew _ _ => true
  | .hwr _ f _ => f == .frameCounter
  | .hunmarshal _ => true
  | .punmarshal => true
  | .pnew _ _ => true
  | _ => false

/-- A store of the host into the space numbered `n` (R213). -/
def storesInto (n : Nat) : Instr → Bool
  | .stb m _ _ => m.toNat == n
  | _ => false

/-- The commands that may write a byte space (R62, R63). -/
def writesSpace (p : Space) (i : Instr) : Bool :=
  match p with
  | .nbuf => storesInto 0 i
  | .nres => i.opcode == .getname
  | .tpmem => storesInto 2 i
  | .rpmem => i.opcode == .punmarshal
  | .txbuf => i.opcode == .hmarshal || i.opcode == .pmarshal || i.opcode == .send
  | .rxbuf => i.opcode == .close || storesInto 5 i

/-- The next input is the command word `w`, answered with `env`; `rest` follows. -/
def NextCommand (s : State) (w : Cmd) (env : Env) (rest : List Input) : Prop := s.inputs = .command w env :: rest

end Sys2Proof.Machine
end

