-- ==== Sys2Proof/Certificates/Slice0/Obligations.lean ====
section
/-! DEFINITION. The statements for the provers. A clause "every field but these" is written as an equation of records: the state
after is the state before with the named fields replaced. `s.respond st v` is `s` with the response `(st, v)` given. -/

open Sys2Proof Sys2Proof.Machine

/-! ## Decoding and the step -/

/-- R106, R110: a word decodes to a command exactly when the opcode map defines it. -/
def Obligations.DecodeAcceptsExactlyTheDefinedWords : Prop :=
  ∀ w : Cmd, (∃ i, decode w = .ok i) ↔ DefinedWord w

/-- R105, R110: decoding undoes encoding, every operand at every value the encoding admits. -/
def Obligations.DecodeUndoesEncode : Prop :=
  ∀ i : Instr, i.wf = true → decode (encode i) = .ok i

/-- R106, R110: a command word has one meaning only, so encoding undoes decoding. -/
def Obligations.EncodeUndoesDecode : Prop :=
  ∀ (w : Cmd) (i : Instr), decode w = .ok i → encode i = w ∧ i.wf = true

/-- A step whose next input is a word that decodes runs exactly that command, on the state with the input taken and the
environment's answers to it in place. That inputs wait in State, each command with its answers, is the model's (log entries 1,
4). -/
def Obligations.StepRunsTheDecodedCommand : Prop :=
  ∀ (s : State) (w : Cmd) (env : Env) (rest : List Input) (i : Instr),
    NextCommand s w env rest → decode w = .ok i → step s = exec i { s with inputs := rest, env := env }

/-- R106: a refused command word changes no state and responds `(VAL_ILLEGAL, 0)`. Taking the input and noting the environment's
answers to it are the model's own (log entries 1, 4). -/
def Obligations.UndefinedWordIsRefused : Prop :=
  ∀ (s : State) (w : Cmd) (env : Env) (rest : List Input),
    NextCommand s w env rest → ¬ DefinedWord w →
      step s = .next ({ s with inputs := rest, env := env }.respond .valIllegal 0)

/-- Words written out from R105 and R110, one of each family, and what they decode to. -/
def Obligations.SampleWordsDecode : Prop :=
  decode 0x0000000000032016 = .ok (.getrate 1 3) ∧
  decode 0x000000001C100027 = .ok (.setafmt .working 16 4 1 1) ∧
  decode 0x112233440005002B = .ok (.hwr .working .frameCounter 0x11223344) ∧
  decode 0x0000000001000030 = .ok (.pnew .working 256) ∧
  decode 0x0A00000300000141 = .ok (.send (some 0x0A000003)) ∧
  decode 0x000000AA07FF0253 = .ok (.stb 2 2047 0xAA)

/-! ## Field model -/

/-- R130, R135, R138, R140: the extractors mask their byte; the sub-protocol operand of `GETCODEC` is ignored. -/
def Obligations.ExtractorsMaskTheirByte : Prop :=
  ∀ (x : Byte) (sp : BitVec 3) (s : State),
    EncodedAs (.getsp x) 0x10 x.toNat 0 0 ∧ EncodedAs (.getsr x) 0x15 x.toNat 0 0 ∧
    EncodedAs (.getdt x) 0x17 x.toNat 0 0 ∧ EncodedAs (.getcodec x sp) 0x19 x.toNat (sp.toNat * 32) 0 ∧
    (∃ v : Word, exec (.getsp x) s = .next (s.respond .ok v) ∧ v.toNat = x.toNat / 32 * 32) ∧
    (∃ v : Word, exec (.getsr x) s = .next (s.respond .ok v) ∧ v.toNat = x.toNat % 32) ∧
    (∃ v : Word, exec (.getdt x) s = .next (s.respond .ok v) ∧ v.toNat = x.toNat % 8) ∧
    (∃ v : Word, exec (.getcodec x sp) s = .next (s.respond .ok v) ∧ v.toNat = x.toNat / 16 * 16)

/-- R131 to R134: each predicate is 1 on its 32 bytes and 0 on every other byte. -/
def Obligations.PredicatesSelectTheirByteRange : Prop :=
  ∀ (x : Byte) (s : State),
    EncodedAs (.isaudio x) 0x11 x.toNat 0 0 ∧ EncodedAs (.isserial x) 0x12 x.toNat 0 0 ∧
    EncodedAs (.istext x) 0x13 x.toNat 0 0 ∧ EncodedAs (.isservice x) 0x14 x.toNat 0 0 ∧
    exec (.isaudio x) s = .next (s.respond .ok (if x.toNat ≤ 0x1F then 1 else 0)) ∧
    exec (.isserial x) s = .next (s.respond .ok (if 0x20 ≤ x.toNat ∧ x.toNat ≤ 0x3F then 1 else 0)) ∧
    exec (.istext x) s = .next (s.respond .ok (if 0x40 ≤ x.toNat ∧ x.toNat ≤ 0x5F then 1 else 0)) ∧
    exec (.isservice x) s = .next (s.respond .ok (if 0x60 ≤ x.toNat ∧ x.toNat ≤ 0x7F then 1 else 0))

/-- R137: the rate is the entry of the sub-protocol's table, or 0 where there is none, whatever the tables hold. -/
def Obligations.GetrateLooksUpItsTable : Prop :=
  ∀ (sp : BitVec 3) (idx : BitVec 5) (s : State),
    EncodedAs (.getrate sp idx) 0x16 (sp.toNat * 32) idx.toNat 0 ∧
    ∃ v : Word, exec (.getrate sp idx) s = .next (s.respond .ok v) ∧
      (∀ r, sp.toNat = 0 → s.cfg.srTable[idx.toNat]? = some (some r) → v = r) ∧
      (sp.toNat = 0 → s.cfg.srTable[idx.toNat]? = some none → v = 0) ∧
      (∀ r, sp.toNat = 1 ∨ sp.toNat = 2 → s.cfg.bpsTable[idx.toNat]? = some (some r) → v = r) ∧
      (sp.toNat = 1 ∨ sp.toNat = 2 → s.cfg.bpsTable[idx.toNat]? = some none → v = 0) ∧
      (3 ≤ sp.toNat → v = 0)

/-- R139: the byte widths of the eight data types. -/
def Obligations.DtsizeGivesTheByteWidth : Prop :=
  ∀ (dt : BitVec 3) (s : State),
    EncodedAs (.dtsize dt) 0x18 dt.toNat 0 0 ∧
    ∃ v : Word, exec (.dtsize dt) s = .next (s.respond .ok v) ∧ v.toNat = [1, 2, 0, 4, 4, 8, 0, 0].getD dt.toNat 0

/-- R141: a field model command reads no register and no byte space, writes none, and cannot fail: in any two states it gives
one and the same value, and only `GETRATE` needs the tables to agree. -/
def Obligations.FieldModelIsPure : Prop :=
  ∀ (i : Instr) (s s' : State), isFieldModel i = true → (i.opcode = .getrate → s.cfg = s'.cfg) →
    ∃ v : Word, exec i s = .next (s.respond .ok v) ∧ exec i s' = .next (s'.respond .ok v)

/-! ## Header codec -/

/-- R150: `HNEW` overwrites every field of its bank and nothing else. -/
def Obligations.HnewOverwritesItsBank : Prop :=
  ∀ (k : Bank) (sp : BitVec 3) (s : State),
    EncodedAs (.hnew k sp) 0x20 (bankNumber k) (sp.toNat * 32) 0 ∧
    ∃ t, exec (.hnew k sp) s = .next t ∧
      (t.bank k).magic = s.cfg.magic ∧ (t.bank k).formatSr.toNat = sp.toNat * 32 ∧
      (t.bank k).formatNbs = 0 ∧ (t.bank k).formatNbc = 0 ∧ (t.bank k).formatBit = 0 ∧ (t.bank k).frameCounter = 0 ∧
      (∀ i < 16, (t.bank k).streamName.toList.getD i 0 = if i < s.nlen.toNat then Memory.read s.nbuf i else 0) ∧
      (∀ j, j ≠ k → t.bank j = s.bank j) ∧
      t = { s with h0 := t.h0, h1 := t.h1, h2 := t.h2, responses := s.responses ++ [⟨.ok, 0⟩] }

/-- R151: `SETNAME` writes all 16 bytes of the name, cut or zero-filled, and nothing else. -/
def Obligations.SetnameWritesAllSixteenBytes : Prop :=
  ∀ (k : Bank) (s : State),
    EncodedAs (.setname k) 0x21 (bankNumber k) 0 0 ∧
    ∃ t, exec (.setname k) s = .next t ∧
      (∀ i < 16, (t.bank k).streamName.toList.getD i 0 = if i < s.nlen.toNat then Memory.read s.nbuf i else 0) ∧
      t.bank k = { s.bank k with streamName := (t.bank k).streamName } ∧
      (∀ j, j ≠ k → t.bank j = s.bank j) ∧
      t = { s with h0 := t.h0, h1 := t.h1, h2 := t.h2, responses := s.responses ++ [⟨.ok, 0⟩] }

/-- R152: `GETNAME` gives the bytes before the first zero byte, or all 16, zero-filled in `NRES` (the fill is the spec's decision
D9). -/
def Obligations.GetnameStopsAtTheFirstZero : Prop :=
  ∀ (k : Bank) (s : State),
    EncodedAs (.getname k) 0x22 (bankNumber k) 0 0 ∧
    ∃ t j, exec (.getname k) s = .next t ∧ j ≤ 16 ∧
      (∀ i < j, (s.bank k).streamName.toList.getD i 0 ≠ 0) ∧
      (j < 16 → (s.bank k).streamName.toList.getD j 0 = 0) ∧
      (∀ i, Memory.read t.nres i =
        if i < j then (s.bank k).streamName.toList.getD i 0 else if i < 16 then 0 else Memory.read s.nres i) ∧
      t.nresLen.toNat = j ∧
      t = { s with nres := t.nres, nresLen := t.nresLen, responses := s.responses ++ [⟨.ok, BitVec.ofNat 32 j⟩] }

/-- R154, R156: a count in 1..256 is stored minus one in its own byte; any other count fails and changes nothing (that a count
above 256 fails is the spec's decision D8). -/
def Obligations.CountSettersStoreMinusOne : Prop :=
  ∀ (k : Bank) (n : Half) (s : State),
    EncodedAs (.setspf k n) 0x24 (bankNumber k) n.toNat 0 ∧ EncodedAs (.setch k n) 0x26 (bankNumber k) n.toNat 0 ∧
    (1 ≤ n.toNat → n.toNat ≤ 256 →
      (∃ v : Byte, v.toNat = n.toNat - 1 ∧
        exec (.setspf k n) s = .next ((s.setBank k { s.bank k with formatNbs := v }).respond .ok 0)) ∧
      (∃ v : Byte, v.toNat = n.toNat - 1 ∧
        exec (.setch k n) s = .next ((s.setBank k { s.bank k with formatNbc := v }).respond .ok 0))) ∧
    (n.toNat = 0 ∨ 256 < n.toNat →
      exec (.setspf k n) s = .next (s.respond .valSpfRange (n.setWidth 32)) ∧
      exec (.setch k n) s = .next (s.respond .valChRange (n.setWidth 32)))

/-- R153, R155: the count getters add one without wrapping, for every stored byte. -/
def Obligations.CountGettersAddOne : Prop :=
  ∀ (k : Bank) (s : State),
    EncodedAs (.getspf k) 0x23 (bankNumber k) 0 0 ∧ EncodedAs (.getch k) 0x25 (bankNumber k) 0 0 ∧
    (∃ v : Word, exec (.getspf k) s = .next (s.respond .ok v) ∧ v.toNat = (s.bank k).formatNbs.toNat + 1) ∧
    (∃ v : Word, exec (.getch k) s = .next (s.respond .ok v) ∧ v.toNat = (s.bank k).formatNbc.toNat + 1)

/-- R100, R153 to R156: counts that were set read back as they were offered, whichever of the two was set first, so that neither
setter disturbs the other's count. -/
def Obligations.StoredCountsReadBack : Prop :=
  ∀ (k : Bank) (n m : Half) (s : State), 1 ≤ n.toNat → n.toNat ≤ 256 → 1 ≤ m.toNat → m.toNat ≤ 256 →
    (∃ t u, exec (.setspf k n) s = .next t ∧ exec (.setch k m) t = .next u ∧
      exec (.getspf k) u = .next (u.respond .ok (n.setWidth 32)) ∧
      exec (.getch k) u = .next (u.respond .ok (m.setWidth 32))) ∧
    (∃ t u, exec (.setch k m) s = .next t ∧ exec (.setspf k n) t = .next u ∧
      exec (.getspf k) u = .next (u.respond .ok (n.setWidth 32)) ∧
      exec (.getch k) u = .next (u.respond .ok (m.setWidth 32)))

/-- R157: `SETAFMT` makes the header Audio, writes both format bytes with the reserved bit 0, and nothing else. -/
def Obligations.SetafmtWritesBothFormatBytes : Prop :=
  ∀ (k : Bank) (idx : BitVec 5) (dt : BitVec 3) (rsv : BitVec 1) (codec : BitVec 4) (s : State),
    EncodedAs (.setafmt k idx dt rsv codec) 0x27 (bankNumber k)
      (idx.toNat + dt.toNat * 2 ^ 8 + rsv.toNat * 2 ^ 11 + codec.toNat * 2 ^ 12) 0 ∧
    ∃ sr fb : Byte, sr.toNat = idx.toNat ∧ fb.toNat = codec.toNat * 16 + dt.toNat ∧
      exec (.setafmt k idx dt rsv codec) s =
        .next ((s.setBank k { s.bank k with formatSr := sr, formatBit := fb }).respond .ok 0)

/-- R158, R91: `HMARSHAL` puts the 28 wire bytes of the bank, whatever they are, into `TXBUF` and keeps the bytes beyond. -/
def Obligations.HmarshalEmitsTheWireImage : Prop :=
  ∀ (k : Bank) (s : State),
    EncodedAs (.hmarshal k) 0x28 (bankNumber k) 0 0 ∧
    ∃ t, exec (.hmarshal k) s = .next t ∧
      (∀ i, Memory.read t.txbuf i = if i < 28 then (s.bank k).wireByte i else Memory.read s.txbuf i) ∧
      t = { s with txbuf := t.txbuf, txlen := 28, responses := s.responses ++ [⟨.ok, 28⟩] }

/-- R160: `HUNMARSHAL` fails on fewer than 28 bytes and changes nothing; on a wrong magic it fails and only its bank (unspecified)
may change; else the bank takes the header whose wire image is `RXBUF[0..27]`. The free-value counter is the model's (log entry
6). -/
def Obligations.HunmarshalDecodesOrFails : Prop :=
  ∀ (k : Bank) (s : State),
    EncodedAs (.hunmarshal k) 0x29 (bankNumber k) 0 0 ∧
    (s.rxlen.toNat < 28 → exec (.hunmarshal k) s = .next (s.respond .protoShort (s.rxlen.setWidth 32))) ∧
    (28 ≤ s.rxlen.toNat → ∃ h : Header, h.ImageIn s.rxbuf ∧
      (h.magic = s.cfg.magic → exec (.hunmarshal k) s = .next ((s.setBank k h).respond .ok 0)) ∧
      (h.magic ≠ s.cfg.magic → ∃ g d,
        exec (.hunmarshal k) s = .next ({ s.setBank k g with draws := d }.respond .protoBadMagic h.magic)))

/-- R161, R108: `HRD` gives the selected field, zero-extended, and changes nothing. -/
def Obligations.HrdReadsTheSelectedField : Prop :=
  ∀ (k : Bank) (s : State),
    (∀ f, EncodedAs (.hrd k f) 0x2A (bankNumber k) (selectorNumber f) 0) ∧
    exec (.hrd k .magic) s = .next (s.respond .ok (s.bank k).magic) ∧
    exec (.hrd k .frameCounter) s = .next (s.respond .ok (s.bank k).frameCounter) ∧
    (∀ f (b : Byte),
      ((f = .formatSr ∧ b = (s.bank k).formatSr) ∨ (f = .formatNbs ∧ b = (s.bank k).formatNbs) ∨
        (f = .formatNbc ∧ b = (s.bank k).formatNbc) ∨ (f = .formatBit ∧ b = (s.bank k).formatBit) ∨
        ∃ i, f = .name i ∧ b = (s.bank k).streamName.toList.getD i.toNat 0) →
      ∃ v : Word, v.toNat = b.toNat ∧ exec (.hrd k f) s = .next (s.respond .ok v))

/-- R162: `HWR` writes the selected field with no check of what it holds, and nothing else; `d[31:8]` must be zero for an 8-bit
field, and no word with a wider value decodes. -/
def Obligations.HwrWritesTheSelectedField : Prop :=
  ∀ (k : Bank) (s : State),
    (∀ f (v : Word), f = .magic ∨ f = .frameCounter ∨ v.toNat < 256 →
      EncodedAs (.hwr k f v) 0x2B (bankNumber k) (selectorNumber f) v.toNat) ∧
    (∀ v, exec (.hwr k .magic v) s = .next ((s.setBank k { s.bank k with magic := v }).respond .ok 0)) ∧
    (∀ v, exec (.hwr k .frameCounter v) s = .next ((s.setBank k { s.bank k with frameCounter := v }).respond .ok 0)) ∧
    (∀ v : Word, v.toNat < 256 → ∃ b : Byte, b.toNat = v.toNat ∧
      exec (.hwr k .formatSr v) s = .next ((s.setBank k { s.bank k with formatSr := b }).respond .ok 0) ∧
      exec (.hwr k .formatNbs v) s = .next ((s.setBank k { s.bank k with formatNbs := b }).respond .ok 0) ∧
      exec (.hwr k .formatNbc v) s = .next ((s.setBank k { s.bank k with formatNbc := b }).respond .ok 0) ∧
      exec (.hwr k .formatBit v) s = .next ((s.setBank k { s.bank k with formatBit := b }).respond .ok 0) ∧
      (∀ i : BitVec 4, ∃ name : NameField,
        name.toList = (s.bank k).streamName.toList.set i.toNat b ∧
        exec (.hwr k (.name i) v) s = .next ((s.setBank k { s.bank k with streamName := name }).respond .ok 0))) ∧
    (∀ f (v : Word), f ≠ .magic → f ≠ .frameCounter → 256 ≤ v.toNat →
      ∀ i, decode (commandWord 0x2B (bankNumber k) (selectorNumber f) v.toNat) ≠ .ok i)

/-- R161, R162: a field just written reads back, and every other field of every bank reads as before. -/
def Obligations.WrittenFieldReadsBack : Prop :=
  ∀ (k : Bank) (f : Field) (v : Word) (s : State), f.fits v = true →
    ∃ t, exec (.hwr k f v) s = .next t ∧ exec (.hrd k f) t = .next (t.respond .ok v) ∧
      ∀ j g, (j ≠ k ∨ g ≠ f) →
        ∃ x, exec (.hrd j g) s = .next (s.respond .ok x) ∧ exec (.hrd j g) t = .next (t.respond .ok x)

/-- R93, an inference the spec marks as its own ("derived: from rule R91, rule R92 and 20_memory.md rule R60"): header and 28-byte
image determine each other; the image is that of R91, byte by byte. -/
def Obligations.HeaderImageIsABijection : Prop :=
  (∀ h : Header, decHeader (encHeader h) = h ∧ (encHeader h).length = 28 ∧
    ∀ i < 28, (encHeader h).getD i 0 = h.wireByte i) ∧
  ∀ s : List Byte, s.length = 28 → encHeader (decHeader s) = s

/-- R28, and R29, an inference the spec marks as its own: a command writes a bank only if the spec names it as a writer of that
bank, and a frame counter only if it is named as a writer of one. -/
def Obligations.OnlyNamedCommandsWriteABank : Prop :=
  ∀ (i : Instr) (s t : State) (k : Bank), exec i s = .next t →
    (writesBank k i = false → t.bank k = s.bank k) ∧
    (writesCounter i = false → (t.bank k).frameCounter = (s.bank k).frameCounter)

/-! ## Packet framing -/

/-- R180: `PNEW` copies the header and sets the length, or fails above 1436 and changes nothing. -/
def Obligations.PnewBuildsTheTransmitPacket : Prop :=
  ∀ (k : Bank) (n : Half) (s : State),
    EncodedAs (.pnew k n) 0x30 (bankNumber k) n.toNat 0 ∧
    (n.toNat ≤ 1436 → ∃ len : BitVec 12, len.toNat = n.toNat ∧
      exec (.pnew k n) s = .next ({ s with h1 := s.bank k, tpktLen := len, tpktValid := true }.respond .ok 0)) ∧
    (1436 < n.toNat → exec (.pnew k n) s = .next (s.respond .valPayloadTooLarge (n.setWidth 32)))

/-- R181: `PMARSHAL` composes header then payload as `TPMEM` holds it now; it fails without a packet (the spec's decision D33),
then on a length above 1436, changing nothing. -/
def Obligations.PmarshalComposesTheDatagram : Prop :=
  ∀ s : State,
    EncodedAs .pmarshal 0x31 0 0 0 ∧
    (s.tpktValid = false → exec .pmarshal s = .next (s.respond .valNilPacket 0)) ∧
    (s.tpktValid = true → 1436 < s.tpktLen.toNat →
      exec .pmarshal s = .next (s.respond .valPayloadTooLarge (s.tpktLen.setWidth 32))) ∧
    (s.tpktValid = true → s.tpktLen.toNat ≤ 1436 → ∃ t, exec .pmarshal s = .next t ∧
      (∀ i, Memory.read t.txbuf i =
        if i < 28 then s.h1.wireByte i
        else if i < 28 + s.tpktLen.toNat then Memory.read s.tpmem (i - 28)
        else Memory.read s.txbuf i) ∧
      t.txlen.toNat = 28 + s.tpktLen.toNat ∧
      t = { s with
            txbuf := t.txbuf, txlen := t.txlen
            responses := s.responses ++ [⟨.ok, BitVec.ofNat 32 (28 + s.tpktLen.toNat)⟩] })

/-- R183: `PUNMARSHAL` rejects a short string, then a long one, then a wrong magic, clearing only `RPKT.VALID`; else it takes the
header into bank 2 and a copy of the rest into `RPMEM`. -/
def Obligations.PunmarshalSplitsOrRejects : Prop :=
  ∀ s : State,
    EncodedAs .punmarshal 0x32 0 0 0 ∧
    (s.rxlen.toNat < 28 →
      exec .punmarshal s = .next ({ s with rpktValid := false }.respond .protoShort (s.rxlen.setWidth 32))) ∧
    (1464 < s.rxlen.toNat →
      exec .punmarshal s = .next ({ s with rpktValid := false }.respond .protoOversize (s.rxlen.setWidth 32))) ∧
    (28 ≤ s.rxlen.toNat → s.rxlen.toNat ≤ 1464 → ∃ h : Header, h.ImageIn s.rxbuf ∧
      (h.magic ≠ s.cfg.magic →
        exec .punmarshal s = .next ({ s with rpktValid := false }.respond .protoBadMagic h.magic)) ∧
      (h.magic = s.cfg.magic → ∃ t, exec .punmarshal s = .next t ∧
        (∀ i, Memory.read t.rpmem i =
          if i < s.rxlen.toNat - 28 then Memory.read s.rxbuf (28 + i) else Memory.read s.rpmem i) ∧
        t.rpktLen.toNat = s.rxlen.toNat - 28 ∧
        t = { s with
              h2 := h, rpktLen := t.rpktLen, rpmem := t.rpmem, rpktValid := true
              responses := s.responses ++ [⟨.ok, BitVec.ofNat 32 (s.rxlen.toNat - 28)⟩] }))

/-- R182, an inference the spec marks as its own ("derived: from rule R181, rule R183 and 30_encoding.md rule R93"): a
marshalled packet whose bytes are copied to the receive buffer of any block with the same magic decodes to the same header and
payload; if its magic is not the constant, the decode fails with the magic it found. -/
def Obligations.MarshalledPacketRoundTrips : Prop :=
  ∀ s : State, s.tpktValid = true → s.tpktLen.toNat ≤ 1436 →
    ∃ t, exec .pmarshal s = .next t ∧
      ∀ u : State, u.cfg.magic = s.cfg.magic → u.rxlen = t.txlen →
        (∀ i < t.txlen.toNat, Memory.read u.rxbuf i = Memory.read t.txbuf i) →
        (s.h1.magic = s.cfg.magic → ∃ v r, exec .punmarshal u = .next v ∧
          v.responses = u.responses ++ [⟨.ok, r⟩] ∧ v.rpktValid = true ∧ v.h2 = s.h1 ∧
          v.rpktLen.toNat = s.tpktLen.toNat ∧
          ∀ i < s.tpktLen.toNat, Memory.read v.rpmem i = Memory.read s.tpmem i) ∧
        (s.h1.magic ≠ s.cfg.magic →
          exec .punmarshal u = .next ({ u with rpktValid := false }.respond .protoBadMagic s.h1.magic))

/-- R69, R259: after `PNEW` from any bank the packet's flat bytes are the wire image of that bank and the first bytes of `TPMEM`;
a write to bank 0 or 2 leaves them alone, and a write to bank 1 leaves banks 0 and 2 alone (header by value), and a byte stored
in the payload's part of `TPMEM` shows in them (payload by reference). -/
def Obligations.HeaderByValuePayloadByReference : Prop :=
  ∀ (s : State) (k : Bank) (n : Half), n.toNat ≤ 1436 →
    ∃ t, exec (.pnew k n) s = .next t ∧ t.tpktValid = true ∧
      t.flatPacket.length = 28 + n.toNat ∧
      (∀ i < 28 + n.toNat,
        t.flatPacket.getD i 0 = if i < 28 then (s.bank k).wireByte i else Memory.read s.tpmem (i - 28)) ∧
      (∀ j f v, j ≠ .transmit → f.fits v = true →
        (∃ u, exec (.hwr j f v) t = .next u ∧ u.flatPacket = t.flatPacket) ∧
        (∃ u, exec (.hwr .transmit f v) t = .next u ∧ u.bank j = s.bank j)) ∧
      (∀ (i : Half) (v : Byte), i.toNat < n.toNat →
        ∃ u, exec (.stb 2 i v) t = .next u ∧ u.flatPacket = t.flatPacket.set (28 + i.toNat) v)

/-! ## Packetizer -/

/-- R190: `EPOPEN` is refused on an open endpoint, fails if the environment says so, else opens with or without a remote. -/
def Obligations.EpopenOpensAClosedEndpoint : Prop :=
  ∀ (r : Option Word) (s : State),
    EncodedAs (.epopen none) 0x40 0 0 0 ∧ (∀ x : Word, EncodedAs (.epopen (some x)) 0x40 1 0 x.toNat) ∧
    (s.epOpen = true → exec (.epopen r) s = .next (s.respond .valIllegal 0)) ∧
    (s.epOpen = false → s.env.openOk = false → exec (.epopen r) s = .next (s.respond .trOpenFail 0)) ∧
    (s.epOpen = false → s.env.openOk = true →
      (r = none →
        exec (.epopen r) s = .next ({ s with epOpen := true, epHasRemote := false, epRemote := 0 }.respond .ok 0)) ∧
      (∀ x, r = some x →
        exec (.epopen r) s = .next ({ s with epOpen := true, epHasRemote := true, epRemote := x }.respond .ok 0)))

/-- R191: the checks of `SEND` in their order (the spec's decision D18), each leaving the state alone and offering nothing; then
one datagram, header then payload, is composed and offered to the destination, and the environment's answer, `env.wr_n` in
`0..28+TPKT.LEN`, decides the response. -/
def Obligations.SendChecksThenOffersOneDatagram : Prop :=
  ∀ (addr : Option Word) (s : State),
    EncodedAs (.send none) 0x41 0 0 0 ∧ (∀ x : Word, EncodedAs (.send (some x)) 0x41 1 0 x.toNat) ∧
    (s.epOpen = false → exec (.send addr) s = .next (s.respond .trClosed 0)) ∧
    (s.epOpen = true → s.tpktValid = false → exec (.send addr) s = .next (s.respond .valNilPacket 0)) ∧
    (s.epOpen = true → s.tpktValid = true → 1436 < s.tpktLen.toNat →
      exec (.send addr) s = .next (s.respond .valPayloadTooLarge (s.tpktLen.setWidth 32))) ∧
    (s.epOpen = true → s.tpktValid = true → s.tpktLen.toNat ≤ 1436 →
      (addr = none → s.epHasRemote = false → exec (.send addr) s = .next (s.respond .valNoDest 0)) ∧
      ∀ dest, addr = some dest ∨ (addr = none ∧ s.epHasRemote = true ∧ dest = s.epRemote) →
        ∃ t bytes st v, exec (.send addr) s = .next t ∧
          bytes.length = 28 + s.tpktLen.toNat ∧
          (∀ i < 28 + s.tpktLen.toNat, bytes.getD i 0 =
            if i < 28 then s.h1.wireByte i else Memory.read s.tpmem (i - 28)) ∧
          (∀ i, Memory.read t.txbuf i = if i < 28 + s.tpktLen.toNat then bytes.getD i 0 else Memory.read s.txbuf i) ∧
          t.txlen.toNat = 28 + s.tpktLen.toNat ∧
          t = { s with
                txbuf := t.txbuf, txlen := t.txlen, offered := s.offered ++ [⟨bytes, dest⟩]
                responses := s.responses ++ [⟨st, v⟩] } ∧
          (s.env.wrErr = true → st = .trWrite ∧ v.toNat = 0) ∧
          (s.env.wrErr = false → s.env.wrN < 28 + s.tpktLen.toNat → st = .trShortWrite ∧ v.toNat = s.env.wrN) ∧
          (s.env.wrErr = false → s.env.wrN = 28 + s.tpktLen.toNat → st = .ok ∧ v.toNat = 28 + s.tpktLen.toNat))

/-- R193: `RECV` fails on a closed endpoint, is refused while one receive is pending, else makes a receive pending. -/
def Obligations.RecvStartsOneReceive : Prop :=
  ∀ s : State,
    EncodedAs .recv 0x42 0 0 0 ∧
    (s.epOpen = false → exec .recv s = .next (s.respond .trClosed 0)) ∧
    (s.epOpen = true → s.epRxPending = true → exec .recv s = .next (s.respond .valIllegal 0)) ∧
    (s.epOpen = true → s.epRxPending = false →
      exec .recv s = .next ({ s with epRxPending := true, epRxDone := false }.respond .ok 0))

/-- R195: `CLOSE` always succeeds: a no-op on a closed endpoint, else it drops the association and completes a pending receive
with `TR_CLOSED_DURING_READ` (0xC5), leaving `RXBUF` unspecified. The free-value counter is the model's (log entry 8). -/
def Obligations.CloseCompletesAPendingReceive : Prop :=
  ∀ s : State,
    EncodedAs .close 0x43 0 0 0 ∧
    (s.epOpen = false → exec .close s = .next (s.respond .ok 0)) ∧
    (s.epOpen = true → s.epRxPending = false →
      exec .close s = .next ({ s with epOpen := false, epHasRemote := false, epRemote := 0 }.respond .ok 0)) ∧
    (s.epOpen = true → s.epRxPending = true → ∃ buf d,
      (∀ i, 1465 ≤ i → Memory.read buf i = Memory.read s.rxbuf i) ∧
      exec .close s = .next ({ s with
        epOpen := false, epHasRemote := false, epRemote := 0, epRxPending := false, epRxDone := true
        rxStatus := 0xC5, rxInfo := 0, rxbuf := buf, rxlen := 0, rpktValid := false, raddrValid := false
        draws := d }.respond .ok 0))

/-- R67, R195: a second `CLOSE` changes nothing and succeeds. -/
def Obligations.SecondCloseIsANoOp : Prop :=
  ∀ s : State, ∃ t, exec .close s = .next t ∧ exec .close t = .next (t.respond .ok 0)

/-- R196: `NET.DELIVER` on a pending receive keeps at most 1465 bytes, tells empty, oversize, short and wrong-magic datagrams
apart in this order, and else hands over header, payload and sender. Taking the input and the free-value counter are the model's
(log entries 1, 7). -/
def Obligations.DeliverCompletesThePendingReceive : Prop :=
  ∀ (s : State) (bytes : List Byte) (src : Word) (rest : List Input),
    s.inputs = .deliver bytes src :: rest → s.epRxPending = true →
    ∃ t n, step s = .next t ∧ n = min bytes.length 1465 ∧
      t.rxlen.toNat = n ∧
      (∀ i, Memory.read t.rxbuf i = if i < n then bytes.getD i 0 else Memory.read s.rxbuf i) ∧
      t = { s with
            inputs := rest, rxbuf := t.rxbuf, rxlen := t.rxlen, rpktValid := t.rpktValid, rpktLen := t.rpktLen
            rpmem := t.rpmem, h2 := t.h2, raddr := t.raddr, raddrValid := t.raddrValid, rxStatus := t.rxStatus
            rxInfo := t.rxInfo, epRxPending := false, epRxDone := true, draws := t.draws } ∧
      (t.rpktValid = false → t.h2 = s.h2 ∧ t.rpktLen = s.rpktLen ∧ t.rpmem = s.rpmem) ∧
      (n = 0 → t.rxStatus = 0xC6 ∧ t.rxInfo.toNat = 0 ∧ t.rpktValid = false) ∧
      (n = 1465 → t.rxStatus = 0xC7 ∧ t.rxInfo.toNat = 1465 ∧ t.rpktValid = false) ∧
      (1 ≤ n → n ≤ 1464 → t.raddr = src ∧ t.raddrValid = true) ∧
      (1 ≤ n → n < 28 → t.rxStatus = 0x81 ∧ t.rxInfo.toNat = n ∧ t.rpktValid = false) ∧
      (28 ≤ n → n ≤ 1464 → ∃ h : Header, (∀ i < 28, h.wireByte i = bytes.getD i 0) ∧
        (h.magic ≠ s.cfg.magic → t.rxStatus = 0x82 ∧ t.rxInfo = h.magic ∧ t.rpktValid = false) ∧
        (h.magic = s.cfg.magic →
          t.rxStatus = 0x00 ∧ t.rxInfo.toNat = n - 28 ∧ t.rpktValid = true ∧ t.h2 = h ∧ t.rpktLen.toNat = n - 28 ∧
          ∀ i, Memory.read t.rpmem i = if i < n - 28 then bytes.getD (28 + i) 0 else Memory.read s.rpmem i))

/-- R197: `NET.RDERR` on a pending receive fails it, with no packet and no sender, `RXBUF` unspecified, the endpoint as it was.
Taking the input and the free-value counter are the model's (log entries 1, 8). -/
def Obligations.ReadErrorFailsThePendingReceive : Prop :=
  ∀ (s : State) (closed : Bool) (rest : List Input),
    s.inputs = .readError closed :: rest → s.epRxPending = true →
    ∃ buf d, (∀ i, 1465 ≤ i → Memory.read buf i = Memory.read s.rxbuf i) ∧
      step s = .next { s with
        inputs := rest, epRxPending := false, epRxDone := true, rxStatus := if closed = true then 0xC5 else 0xC4
        rxInfo := 0, rxbuf := buf, rxlen := 0, rpktValid := false, raddrValid := false, draws := d }

/-- R72: no network event is enabled while no receive is pending. That the model then stops with a fault is its own choice (log
entry 5). -/
def Obligations.EventsNeedAPendingReceive : Prop :=
  ∀ (s : State) (rest : List Input), s.epRxPending = false →
    (∀ bytes src, s.inputs = .deliver bytes src :: rest → step s = .fault .networkEventNotEnabled) ∧
    (∀ closed, s.inputs = .readError closed :: rest → step s = .fault .networkEventNotEnabled)

/-- R192: a step offers at most one datagram, and only when its command is a `SEND`; a datagram offered has 28 to 1464 bytes. -/
def Obligations.OnlySendOffersDatagrams : Prop :=
  ∀ s t : State, step s = .next t →
    t.offered = s.offered ∨
    ∃ w env rest addr d, NextCommand s w env rest ∧ decode w = .ok (.send addr) ∧
      t.offered = s.offered ++ [d] ∧ 28 ≤ d.bytes.length ∧ d.bytes.length ≤ 1464

/-- R36: the open bit, the remote bit and the remote address are written by `EPOPEN` and `CLOSE` only, no network event among
them. -/
def Obligations.OnlyEpopenAndCloseMoveTheEndpoint : Prop :=
  ∀ s t : State, step s = .next t →
    (∀ w env rest r, NextCommand s w env rest → decode w ≠ .ok (.epopen r) ∧ decode w ≠ .ok .close) →
    t.epOpen = s.epOpen ∧ t.epHasRemote = s.epHasRemote ∧ t.epRemote = s.epRemote

/-- R257, R214: while a receive is pending no command but `CLOSE` changes the receive buffer or ends the wait. -/
def Obligations.PendingReceiveOwnsItsBuffer : Prop :=
  ∀ (i : Instr) (s t : State), s.epRxPending = true → i ≠ .close → exec i s = .next t →
    t.rxbuf = s.rxbuf ∧ t.rxlen = s.rxlen ∧ t.epRxPending = true

/-- R191, R196, and R199, an inference the spec marks as its own: a packet with the magic constant that one block sends, to an
explicit address or (`SEND 0`, the form of R199) to its associated remote, delivered to another block of the same parameters with
a receive pending, arrives with the same header and payload and the sender's address. The list of inputs and the list of
offered datagrams are the model's (log entries 1, 3). -/
def Obligations.LoopbackDeliversThePacket : Prop :=
  ∀ (a b : State) (addr : Option Word) (dest src : Word) (rest : List Input),
    a.cfg = b.cfg → b.epOpen = true → b.tpktValid = true → b.tpktLen.toNat ≤ 1436 → b.h1.magic = b.cfg.magic →
    a.epRxPending = true → (addr = some dest ∨ (addr = none ∧ b.epHasRemote = true ∧ dest = b.epRemote)) →
    ∃ b' d, exec (.send addr) b = .next b' ∧ b'.offered = b.offered ++ [d] ∧ d.dest = dest ∧
      ∃ a', step { a with inputs := .deliver d.bytes src :: rest } = .next a' ∧
        a'.rxStatus = 0x00 ∧ a'.rpktValid = true ∧ a'.h2 = b.h1 ∧ a'.rpktLen.toNat = b.tpktLen.toNat ∧
        (∀ i < b.tpktLen.toNat, Memory.read a'.rpmem i = Memory.read b.tpmem i) ∧
        a'.raddr = src ∧ a'.raddrValid = true ∧ a'.epRxPending = false ∧ a'.epRxDone = true

/-! ## Host access -/

/-- R210, R40: `CRD` reads each of the fourteen registers, zero-extended; a number above 0x0D is refused. -/
def Obligations.CrdReadsEveryRegister : Prop :=
  ∀ (r : Byte) (s : State),
    EncodedAs (.crd r) 0x50 r.toNat 0 0 ∧
    (0x0D < r.toNat → exec (.crd r) s = .next (s.respond .valIllegal 0)) ∧
    (r.toNat ≤ 0x0D → ∃ v : Word, exec (.crd r) s = .next (s.respond .ok v) ∧
      v.toNat =
        [s.epOpen.toNat + 2 * s.epHasRemote.toNat + 4 * s.epRxPending.toNat + 8 * s.epRxDone.toNat,
         s.epRemote.toNat, s.nlen.toNat, s.nresLen.toNat, s.tpktValid.toNat, s.tpktLen.toNat, s.rpktValid.toNat,
         s.rpktLen.toNat, s.txlen.toNat, s.rxlen.toNat, s.rxStatus.toNat, s.rxInfo.toNat, s.raddr.toNat,
         s.raddrValid.toNat].getD r.toNat 0)

/-- R211, R40: `CWR` writes the four writable registers with their legal values, `RXLEN` only while no receive is pending, and
refuses everything else with no state change. -/
def Obligations.CwrWritesOnlyLegalValues : Prop :=
  ∀ (r : Byte) (v : Word) (s : State),
    EncodedAs (.cwr r v) 0x51 r.toNat 0 v.toNat ∧
    (r.toNat = 0x02 → v.toNat ≤ 64 → ∃ x : BitVec 7, x.toNat = v.toNat ∧
      exec (.cwr r v) s = .next ({ s with nlen := x }.respond .ok 0)) ∧
    (r.toNat = 0x04 → v.toNat ≤ 1 → ∃ x : Bool, x.toNat = v.toNat ∧
      exec (.cwr r v) s = .next ({ s with tpktValid := x }.respond .ok 0)) ∧
    (r.toNat = 0x05 → v.toNat ≤ 2048 → ∃ x : BitVec 12, x.toNat = v.toNat ∧
      exec (.cwr r v) s = .next ({ s with tpktLen := x }.respond .ok 0)) ∧
    (r.toNat = 0x09 → v.toNat ≤ 1465 → s.epRxPending = false → ∃ x : BitVec 11, x.toNat = v.toNat ∧
      exec (.cwr r v) s = .next ({ s with rxlen := x }.respond .ok 0)) ∧
    ((r.toNat = 0x02 ∧ 64 < v.toNat) ∨ (r.toNat = 0x04 ∧ 1 < v.toNat) ∨ (r.toNat = 0x05 ∧ 2048 < v.toNat) ∨
      (r.toNat = 0x09 ∧ (1465 < v.toNat ∨ s.epRxPending = true)) ∨
      (r.toNat ≠ 0x02 ∧ r.toNat ≠ 0x04 ∧ r.toNat ≠ 0x05 ∧ r.toNat ≠ 0x09) →
      exec (.cwr r v) s = .next (s.respond .valIllegal 0))

/-- R212, R62: `LDB` reads the byte at an index below the capacity of spaces 0 to 5; any other access is refused. -/
def Obligations.LdbReadsOneByte : Prop :=
  ∀ (n : Byte) (i : Half) (s : State),
    EncodedAs (.ldb n i) 0x52 n.toNat i.toNat 0 ∧
    (i.toNat < [64, 16, 2048, 1436, 1464, 1465].getD n.toNat 0 → ∃ v : Word,
      exec (.ldb n i) s = .next (s.respond .ok v) ∧
      v.toNat =
        (Memory.read ([s.nbuf, s.nres, s.tpmem, s.rpmem, s.txbuf, s.rxbuf].getD n.toNat []) i.toNat).toNat) ∧
    ([64, 16, 2048, 1436, 1464, 1465].getD n.toNat 0 ≤ i.toNat →
      exec (.ldb n i) s = .next (s.respond .valIllegal 0))

/-- R213, R62: `STB` writes one byte of `NBUF`, `TPMEM`, or (while no receive is pending) `RXBUF`, and nothing else; any other
access is refused with no state change. -/
def Obligations.StbWritesOneByte : Prop :=
  ∀ (n : Byte) (i : Half) (v : Byte) (s : State),
    EncodedAs (.stb n i v) 0x53 n.toNat i.toNat v.toNat ∧
    (n.toNat = 0 → i.toNat < 64 → ∃ m, (∀ a, Memory.read m a = if a = i.toNat then v else Memory.read s.nbuf a) ∧
      exec (.stb n i v) s = .next ({ s with nbuf := m }.respond .ok 0)) ∧
    (n.toNat = 2 → i.toNat < 2048 → ∃ m, (∀ a, Memory.read m a = if a = i.toNat then v else Memory.read s.tpmem a) ∧
      exec (.stb n i v) s = .next ({ s with tpmem := m }.respond .ok 0)) ∧
    (n.toNat = 5 → i.toNat < 1465 → s.epRxPending = false →
      ∃ m, (∀ a, Memory.read m a = if a = i.toNat then v else Memory.read s.rxbuf a) ∧
      exec (.stb n i v) s = .next ({ s with rxbuf := m }.respond .ok 0)) ∧
    ((n.toNat = 0 ∧ 64 ≤ i.toNat) ∨ (n.toNat = 2 ∧ 2048 ≤ i.toNat) ∨
      (n.toNat = 5 ∧ (1465 ≤ i.toNat ∨ s.epRxPending = true)) ∨
      (n.toNat ≠ 0 ∧ n.toNat ≠ 2 ∧ n.toNat ≠ 5) →
      exec (.stb n i v) s = .next (s.respond .valIllegal 0))

/-! ## The whole machine -/

/-- R45: after reset every register, header field and byte reads as zero. The defaults of the parameters (log entries 9, 10) are
not stated. -/
def Obligations.ResetReadsAsZero : Prop :=
  (∀ r : Byte, r.toNat ≤ 0x0D → exec (.crd r) State.reset = .next (State.reset.respond .ok 0)) ∧
  (∀ k f, exec (.hrd k f) State.reset = .next (State.reset.respond .ok 0)) ∧
  (∀ p a, Memory.read (State.reset.space p) a = 0)

/-- R251, an inference the spec marks as its own (from R45 and the command rules): what commands answer straight after reset. -/
def Obligations.CommandsAfterReset : Prop :=
  ∀ (k : Bank) (addr : Option Word),
    exec (.getspf k) State.reset = .next (State.reset.respond .ok 1) ∧
    exec (.getch k) State.reset = .next (State.reset.respond .ok 1) ∧
    exec (.hunmarshal k) State.reset = .next (State.reset.respond .protoShort 0) ∧
    exec .punmarshal State.reset = .next (State.reset.respond .protoShort 0) ∧
    exec .pmarshal State.reset = .next (State.reset.respond .valNilPacket 0) ∧
    exec (.send addr) State.reset = .next (State.reset.respond .trClosed 0) ∧
    exec .recv State.reset = .next (State.reset.respond .trClosed 0) ∧
    exec .close State.reset = .next (State.reset.respond .ok 0) ∧
    (∃ t, exec (.hmarshal k) State.reset = .next t ∧ t.txlen.toNat = 28 ∧ ∀ i, Memory.read t.txbuf i = 0) ∧
    (∃ t, exec (.getname k) State.reset = .next t ∧ t.responses = [⟨.ok, 0⟩] ∧ t.nresLen = 0)

/-- R46, an inference the spec marks as its own: the invariant holds at reset. Its clauses on the canonical form of memory are the
model's (log entry 12). -/
def Obligations.ResetMeetsTheInvariant : Prop := Inv State.reset

/-- R46, an inference the spec marks as its own, and R31, R37, R40: every step of the machine, whatever its input, keeps the
invariant. Its clauses on the canonical form of memory are the model's (log entry 12). -/
def Obligations.EveryStepKeepsTheInvariant : Prop := ∀ s t : State, Inv s → step s = .next t → Inv t

/-- R112, and R256, an inference the spec marks as its own: every command is defined in every state and answers exactly one
response; the parameters, the inputs to come and the environment's answers are not its to change. -/
def Obligations.EveryCommandAnswersOnce : Prop :=
  ∀ (i : Instr) (s : State), ∃ t r, exec i s = .next t ∧ t.responses = s.responses ++ [r] ∧
    t.cfg = s.cfg ∧ t.inputs = s.inputs ∧ t.env = s.env

/-- R72, and R256, an inference the spec marks as its own: a step goes on, or its next input is a network event that is not
enabled (that the model then faults is its own choice, log entry 5). -/
def Obligations.StepStopsOnlyOnADisabledEvent : Prop :=
  ∀ s : State, (∃ t, step s = .next t ∧ t.cfg = s.cfg) ∨
    (s.epRxPending = false ∧ step s = .fault .networkEventNotEnabled ∧
      ∃ rest, (∃ bytes src, s.inputs = .deliver bytes src :: rest) ∨ ∃ closed, s.inputs = .readError closed :: rest)

/-- R159, R229: `INT_SIZE` is never produced, neither in a response nor in `RXSTATUS`. -/
def Obligations.InternalSizeErrorNeverProduced : Prop :=
  ∀ s t : State, step s = .next t →
    (∀ r ∈ t.responses, r ∈ s.responses ∨ r.status ≠ .intSize) ∧ (t.rxStatus = s.rxStatus ∨ t.rxStatus ≠ 0x01)

/-- R106, and R223, an inference the spec marks as its own: a command that answers with a validation failure or a refusal (class
1) changes no state whatsoever. -/
def Obligations.ValidationFailuresChangeNothing : Prop :=
  ∀ (i : Instr) (s t : State) (r : Response), exec i s = .next t → t.responses = s.responses ++ [r] →
    statusClass r.status.code = 1 → t = s.respond r.status r.value

/-- R223, an inference the spec marks as its own: a failing command changes no transmit packet, no transmit payload and no name
operand, and no working or transmit header but that of the bank `HUNMARSHAL` was decoding into. -/
def Obligations.FailuresLeaveTheSendSideAlone : Prop :=
  ∀ (i : Instr) (s t : State) (r : Response), exec i s = .next t → t.responses = s.responses ++ [r] → r.status ≠ .ok →
    t.tpktValid = s.tpktValid ∧ t.tpktLen = s.tpktLen ∧ t.tpmem = s.tpmem ∧ t.nbuf = s.nbuf ∧ t.nlen = s.nlen ∧
    (i ≠ .hunmarshal .working → t.h0 = s.h0) ∧ (i ≠ .hunmarshal .transmit → t.h1 = s.h1)

/-- R67: a read changes no state; `GETNAME` repeated gives the same response and the same state. -/
def Obligations.ReadsChangeNothing : Prop :=
  (∀ (i : Instr) (s : State), isPureRead i = true → ∃ st v, exec i s = .next (s.respond st v)) ∧
  ∀ (k : Bank) (s : State), ∃ t v, exec (.getname k) s = .next t ∧ t.responses = s.responses ++ [⟨.ok, v⟩] ∧
    exec (.getname k) t = .next (t.respond .ok v)

/-- R62, and R63, an inference the spec marks as its own: a command changes a byte space only if the spec names it as a writer
of that space. -/
def Obligations.OnlyNamedCommandsWriteASpace : Prop :=
  ∀ (i : Instr) (s t : State) (p : Space), exec i s = .next t → writesSpace p i = false → t.space p = s.space p

/-- The model's choice, DEDUCED from R106 and R110 (log entry 11): the term of an `HWR` whose value is too wide for its 8-bit
field is what no command word decodes to, and exec gives it the response of a refused word. -/
def Obligations.TooWideHwrTermIsRefused : Prop :=
  ∀ (k : Bank) (f : Field) (v : Word) (s : State), f ≠ .magic → f ≠ .frameCounter → 256 ≤ v.toNat →
    (∀ w, decode w ≠ .ok (.hwr k f v)) ∧ exec (.hwr k f v) s = .next (s.respond .valIllegal 0)
end

