-- ==== Sys2Proof/Laws/Memory.lean ====
section
/-! SUPPORT. The laws of the byte spaces: a read after a write, the canonical form, the capacity, and that equal contents are equal
data. -/

namespace Sys2Proof.Machine

@[simp] theorem Memory.read_nil (x : Nat) : Memory.read [] x = 0 := rfl

@[simp] theorem Memory.read_cons (c : Host.Cell) (m : Memory) (x : Nat) :
    Memory.read (c :: m) x = if c.1 = x then c.2 else Memory.read m x := rfl

theorem Memory.read_append (m n : Memory) (x : Nat) (h : ∀ c ∈ m, c.1 ≠ x) :
    Memory.read (m ++ n) x = Memory.read n x := by
  induction m with
  | nil => rfl
  | cons c m ih =>
    have hc : c.1 ≠ x := h c (by simp)
    simp only [List.cons_append, Memory.read_cons, if_neg hc]
    exact ih fun e he => h e (by simp [he])

theorem Memory.read_append_left (m n : Memory) (x : Nat) (h : ∀ c ∈ n, c.1 ≠ x) :
    Memory.read (m ++ n) x = Memory.read m x := by
  induction m with
  | nil =>
    have := Memory.read_append n [] x h
    simpa using this
  | cons c m ih => simp only [List.cons_append, Memory.read_cons, ih]

theorem Memory.read_eq_zero (m : Memory) (x : Nat) (h : ∀ c ∈ m, c.1 ≠ x) : Memory.read m x = 0 := by
  simpa using Memory.read_append m [] x h

theorem Memory.read_filter (m : Memory) (x : Nat) (p : Nat → Bool) :
    Memory.read (m.filter fun c => p c.1) x = if p x then Memory.read m x else 0 := by
  induction m with
  | nil => simp
  | cons c m ih =>
    by_cases hx : c.1 = x
    · subst hx
      by_cases hp : p c.1 <;> simp [hp, ih]
    · by_cases hp : p c.1 <;> simp [hp, ih, hx]

/-- The entries placed lie in the written window. -/
theorem Memory.place_bounds (a : Nat) (bs : List Byte) :
    ∀ c ∈ Memory.place a bs, a ≤ c.1 ∧ c.1 < a + bs.length ∧ c.2 ≠ 0 := by
  induction bs generalizing a with
  | nil => simp [Memory.place]
  | cons b bs ih =>
    intro c hc
    simp only [Memory.place] at hc
    split at hc
    · obtain ⟨h1, h2, h3⟩ := ih (a + 1) c hc
      rw [List.length_cons]
      exact ⟨by omega, by omega, h3⟩
    · rcases List.mem_cons.mp hc with rfl | hc
      · simpa using ‹¬ b = 0›
      · obtain ⟨h1, h2, h3⟩ := ih (a + 1) c hc
        rw [List.length_cons]
        exact ⟨by omega, by omega, h3⟩

theorem Memory.read_place (a : Nat) (bs : List Byte) (x : Nat) :
    Memory.read (Memory.place a bs) x = if a ≤ x then bs.getD (x - a) 0 else 0 := by
  induction bs generalizing a with
  | nil => simp [Memory.place]
  | cons b bs ih =>
    by_cases hx : x = a
    · subst hx
      have hrest : Memory.read (Memory.place (x + 1) bs) x = 0 := by
        rw [ih]; simp
      by_cases hb : b = 0
      · simp only [Memory.place, if_pos hb, hrest]
        simp [hb]
      · simp only [Memory.place, if_neg hb]
        simp
    · have step : Memory.read (Memory.place a (b :: bs)) x = Memory.read (Memory.place (a + 1) bs) x := by
        have : a ≠ x := fun h => hx h.symm
        by_cases hb : b = 0
        · simp only [Memory.place, if_pos hb]
        · simp only [Memory.place, if_neg hb, Memory.read_cons, if_neg this]
      rw [step, ih]
      by_cases hlt : a < x
      · have e : x - a = (x - (a + 1)) + 1 := by omega
        have h1 : a + 1 ≤ x := hlt
        have h2 : a ≤ x := by omega
        simp [h1, h2, e]
      · have h1 : ¬ a + 1 ≤ x := hlt
        have h2 : ¬ a ≤ x := by omega
        simp [h1, h2]

/-- A read after a write: the byte written inside the window, the old byte outside. -/
theorem Memory.read_write (m : Memory) (a : Nat) (bs : List Byte) (x : Nat) :
    Memory.read (Memory.write m a bs) x =
      if a ≤ x ∧ x < a + bs.length then bs.getD (x - a) 0 else Memory.read m x := by
  unfold Memory.write
  rw [List.append_assoc]
  by_cases hlo : x < a
  · rw [Memory.read_append_left, Memory.read_filter m x fun y => decide (y < a)]
    · have : ¬ a ≤ x := by omega
      simp [hlo, this]
    · intro c hc
      rcases List.mem_append.mp hc with hc | hc
      · have := Memory.place_bounds a bs c hc; omega
      · have := (List.mem_filter.mp hc).2
        simp only [decide_eq_true_eq] at this; omega
  · have hlow : ∀ c ∈ m.filter (fun c => decide (c.1 < a)), c.1 ≠ x := by
      intro c hc
      have := (List.mem_filter.mp hc).2
      simp only [decide_eq_true_eq] at this; omega
    rw [Memory.read_append _ _ _ hlow]
    by_cases hin : x < a + bs.length
    · rw [Memory.read_append_left, Memory.read_place]
      · have : a ≤ x := by omega
        simp [this, hin]
      · intro c hc
        have := (List.mem_filter.mp hc).2
        simp only [decide_eq_true_eq] at this; omega
    · rw [Memory.read_append, Memory.read_filter m x fun y => decide (a + bs.length ≤ y)]
      · have : a + bs.length ≤ x := by omega
        simp [this, hin]
      · intro c hc
        have := Memory.place_bounds a bs c hc; omega

theorem Memory.rising_iff (m : Memory) : Memory.rising m = true ↔ m.Pairwise fun c e => c.1 < e.1 := by
  induction m with
  | nil => simp [Memory.rising]
  | cons c m ih => simp [Memory.rising, ih]

theorem Memory.wf_iff (m : Memory) :
    Memory.wf m = true ↔ (m.Pairwise fun c e => c.1 < e.1) ∧ ∀ c ∈ m, c.2 ≠ 0 := by
  simp [Memory.wf, Memory.rising_iff]

theorem Memory.within_iff (cap : Nat) (m : Memory) : Memory.within cap m = true ↔ ∀ c ∈ m, c.1 < cap := by
  simp [Memory.within]

theorem Memory.place_pairwise (a : Nat) (bs : List Byte) :
    (Memory.place a bs).Pairwise fun c e => c.1 < e.1 := by
  induction bs generalizing a with
  | nil => simp [Memory.place]
  | cons b bs ih =>
    simp only [Memory.place]
    split
    · exact ih _
    · refine List.pairwise_cons.mpr ⟨fun c hc => ?_, ih _⟩
      have := Memory.place_bounds (a + 1) bs c hc
      show a < c.1
      omega

/-- Reset's memories are canonical. -/
@[simp] theorem Memory.wf_nil : Memory.wf [] = true := rfl

@[simp] theorem Memory.within_nil (cap : Nat) : Memory.within cap [] = true := rfl

/-- A write keeps the canonical form. -/
theorem Memory.wf_write (m : Memory) (a : Nat) (bs : List Byte) (h : Memory.wf m = true) :
    Memory.wf (Memory.write m a bs) = true := by
  rw [Memory.wf_iff] at h ⊢
  obtain ⟨hp, hz⟩ := h
  constructor
  · unfold Memory.write
    rw [List.append_assoc, List.pairwise_append, List.pairwise_append]
    refine ⟨hp.filter _, ⟨Memory.place_pairwise a bs, hp.filter _, ?_⟩, ?_⟩
    · intro c hc e he
      have h1 := Memory.place_bounds a bs c hc
      have h2 := (List.mem_filter.mp he).2
      simp only [decide_eq_true_eq] at h2; omega
    · intro c hc e he
      have h1 := (List.mem_filter.mp hc).2
      simp only [decide_eq_true_eq] at h1
      rcases List.mem_append.mp he with he | he
      · have := Memory.place_bounds a bs e he; omega
      · have h2 := (List.mem_filter.mp he).2
        simp only [decide_eq_true_eq] at h2; omega
  · intro c hc
    unfold Memory.write at hc
    rcases List.mem_append.mp hc with hc | hc
    · rcases List.mem_append.mp hc with hc | hc
      · exact hz c (List.mem_of_mem_filter hc)
      · exact (Memory.place_bounds a bs c hc).2.2
    · exact hz c (List.mem_of_mem_filter hc)

/-- A write inside a space keeps its addresses below the capacity. -/
theorem Memory.within_write (cap : Nat) (m : Memory) (a : Nat) (bs : List Byte)
    (h : Memory.within cap m = true) (hb : a + bs.length ≤ cap) : Memory.within cap (Memory.write m a bs) = true := by
  rw [Memory.within_iff] at h ⊢
  intro c hc
  unfold Memory.write at hc
  rcases List.mem_append.mp hc with hc | hc
  · rcases List.mem_append.mp hc with hc | hc
    · exact h c (List.mem_of_mem_filter hc)
    · have := Memory.place_bounds a bs c hc; omega
  · exact h c (List.mem_of_mem_filter hc)

/-- Canonical memories with equal contents are equal. -/
theorem Memory.ext_of_wf (m n : Memory) (hm : Memory.wf m = true) (hn : Memory.wf n = true)
    (h : ∀ x, Memory.read m x = Memory.read n x) : m = n := by
  rw [Memory.wf_iff] at hm hn
  induction m generalizing n with
  | nil =>
    cases n with
    | nil => rfl
    | cons e n =>
      have h0 := h e.1
      have := hn.2 e (by simp)
      simp at h0
      exact absurd h0.symm this
  | cons c m ih =>
    cases n with
    | nil =>
      have h0 := h c.1
      have := hm.2 c (by simp)
      simp at h0
      exact absurd h0 this
    | cons e n =>
      obtain ⟨hpm, hzm⟩ := hm
      obtain ⟨hpn, hzn⟩ := hn
      rw [List.pairwise_cons] at hpm hpn
      have zm : ∀ x ≤ c.1, Memory.read m x = 0 := fun x hx =>
        Memory.read_eq_zero m x fun d hd => by have := hpm.1 d hd; omega
      have zn : ∀ x ≤ e.1, Memory.read n x = 0 := fun x hx =>
        Memory.read_eq_zero n x fun d hd => by have := hpn.1 d hd; omega
      have hce : c.1 = e.1 := by
        rcases Nat.lt_trichotomy c.1 e.1 with hlt | heq | hgt
        · have h0 := h c.1
          have hne : e.1 ≠ c.1 := by omega
          rw [Memory.read_cons, if_pos rfl, Memory.read_cons, if_neg hne, zn c.1 (by omega)] at h0
          exact absurd h0 (hzm c (by simp))
        · exact heq
        · have h0 := h e.1
          have hne : c.1 ≠ e.1 := by omega
          rw [Memory.read_cons, if_neg hne, Memory.read_cons, if_pos rfl, zm e.1 (by omega)] at h0
          exact absurd h0.symm (hzn e (by simp))
      have hv : c.2 = e.2 := by
        have h0 := h c.1
        rwa [Memory.read_cons, if_pos rfl, Memory.read_cons, if_pos hce.symm] at h0
      have ht : m = n := by
        refine ih n ⟨hpm.2, fun d hd => hzm d (by simp [hd])⟩ ⟨hpn.2, fun d hd => hzn d (by simp [hd])⟩ fun x => ?_
        by_cases hx : x ≤ c.1
        · rw [zm x hx, zn x (by omega)]
        · have h0 := h x
          have h1 : c.1 ≠ x := by omega
          have h2 : e.1 ≠ x := by omega
          rwa [Memory.read_cons, if_neg h1, Memory.read_cons, if_neg h2] at h0
      rw [Prod.ext hce hv, ht]

/-! ### Reading a string -/

@[simp] theorem Memory.length_readBytes (m : Memory) (a n : Nat) : (Memory.readBytes m a n).length = n := by
  simp [Memory.readBytes]

theorem Memory.getD_readBytes (m : Memory) (a n i : Nat) (h : i < n) :
    (Memory.readBytes m a n).getD i 0 = Memory.read m (a + i) := by
  simp [Memory.readBytes, h]

/-- A string written and read back where it was written. -/
theorem Memory.readBytes_write (m : Memory) (a : Nat) (bs : List Byte) :
    Memory.readBytes (Memory.write m a bs) a bs.length = bs := by
  apply List.ext_getElem
  · simp
  · intro i h1 h2
    simp [Memory.readBytes, Memory.read_write, h2]

/-- Reading a part of a string just written. -/
theorem Memory.readBytes_write_sub (m : Memory) (a : Nat) (bs : List Byte) (i n : Nat) (h : i + n ≤ bs.length) :
    Memory.readBytes (Memory.write m a bs) (a + i) n = (bs.drop i).take n := by
  apply List.ext_getElem
  · simp; omega
  · intro j h1 h2
    have hj : j < n := by simpa using h1
    have hlt : i + j < bs.length := by omega
    have h3 : a ≤ a + i + j ∧ a + i + j < a + bs.length := by omega
    have h4 : a + i + j - a = i + j := by omega
    simp [Memory.readBytes, Memory.read_write, h3, h4, hlt]

end Sys2Proof.Machine
end

