-- ==== Sys2Proof/Laws/Codec.lean ====
section
/-! SUPPORT. The laws of byte order, of the name field and of the header image's shape. -/

namespace Sys2Proof.Machine

@[simp] theorem length_le32 (v : Word) : (le32 v).length = 4 := rfl

/-- The value of a 4-byte string, least significant byte first (R60). -/
theorem toNat_unle32 (a b c d : Byte) :
    (unle32 [a, b, c, d]).toNat = a.toNat + 256 * b.toNat + 65536 * c.toNat + 16777216 * d.toNat := by
  have ha := a.isLt
  have hb := b.isLt
  have hc := c.isLt
  simp only [unle32, List.getD_cons_zero, List.getD_cons_succ, BitVec.toNat_append]
  rw [← Nat.shiftLeft_add_eq_or_of_lt hc, ← Nat.shiftLeft_add_eq_or_of_lt hb, ← Nat.shiftLeft_add_eq_or_of_lt ha]
  simp only [Nat.shiftLeft_eq]
  omega

/-- `unle32(le32(v)) = v` (R60). -/
theorem unle32_le32 (v : Word) : unle32 (le32 v) = v := by
  apply BitVec.eq_of_toNat_eq
  have h := v.isLt
  rw [le32, toNat_unle32]
  simp only [BitVec.extractLsb'_toNat, Nat.shiftRight_eq_div_pow]
  omega

/-- `le32(unle32(s)) = s` for a 4-byte string (R60). -/
theorem le32_unle32 (s : List Byte) (h : s.length = 4) : le32 (unle32 s) = s := by
  obtain ⟨a, b, c, d, rfl⟩ : ∃ a b c d, s = [a, b, c, d] := by
    match s, h with
    | [a, b, c, d], _ => exact ⟨a, b, c, d, rfl⟩
  have ha := a.isLt
  have hb := b.isLt
  have hc := c.isLt
  have hd := d.isLt
  simp only [le32, List.cons.injEq, and_true]
  refine ⟨?_, ?_, ?_, ?_⟩ <;>
  · apply BitVec.eq_of_toNat_eq
    rw [BitVec.extractLsb'_toNat, toNat_unle32, Nat.shiftRight_eq_div_pow]
    omega

@[simp] theorem getElem_nameOfFn (f : Nat → Byte) (i : Nat) (h : i < 16) : (nameOfFn f)[i] = f i := by
  simp [nameOfFn]

theorem toList_nameOfFn (f : Nat → Byte) : (nameOfFn f).toList = (List.range 16).map f := rfl

/-! ### The name field (R102) -/

theorem takeWhile_name_cons (b : Byte) (l : List Byte) (hb : b ≠ 0) :
    (b :: l).takeWhile (fun c => c != 0) = b :: l.takeWhile fun c => c != 0 :=
  List.takeWhile_cons_of_pos (by simpa using hb)

theorem takeWhile_name_zero (l : List Byte) : ((0 : Byte) :: l).takeWhile (fun c => c != 0) = [] :=
  List.takeWhile_cons_of_neg (by simp)

/-- A name agrees with the field below its length and reads as zero beyond (R102). -/
theorem getD_takeWhile_name (l : List Byte) (i : Nat) :
    (l.takeWhile fun c => c != 0).getD i 0 = if i < (l.takeWhile fun c => c != 0).length then l.getD i 0 else 0 := by
  induction l generalizing i with
  | nil => rfl
  | cons b l ih =>
    by_cases hb : b = 0
    · subst hb
      rw [takeWhile_name_zero]
      rfl
    · rw [takeWhile_name_cons b l hb]
      cases i with
      | zero => rfl
      | succ i => simpa only [List.getD_cons_succ, List.length_cons, Nat.add_lt_add_iff_right] using ih i

/-- Below its length a name holds no zero byte (R102). -/
theorem getD_name_ne_zero (l : List Byte) (i : Nat) (h : i < (l.takeWhile fun c => c != 0).length) : l.getD i 0 ≠ 0 := by
  induction l generalizing i with
  | nil => exact absurd h (by simp)
  | cons b l ih =>
    by_cases hb : b = 0
    · subst hb
      rw [takeWhile_name_zero] at h
      exact absurd h (by simp)
    · rw [takeWhile_name_cons b l hb] at h
      cases i with
      | zero => exact hb
      | succ i => exact ih i (by simpa only [List.length_cons, Nat.add_lt_add_iff_right] using h)

/-- The byte that ends a name is zero, or past the field (R102). -/
theorem getD_name_end (l : List Byte) : l.getD (l.takeWhile fun c => c != 0).length 0 = 0 := by
  induction l with
  | nil => rfl
  | cons b l ih =>
    by_cases hb : b = 0
    · subst hb
      rw [takeWhile_name_zero]
      rfl
    · rw [takeWhile_name_cons b l hb, List.length_cons, List.getD_cons_succ, ih]

/-- A byte of a name field that is set: the name's byte, or zero fill (R102). -/
theorem getD_nameSet (l : List Byte) (i : Nat) (h : i < 16) : (nameSet l).toList.getD i 0 = l.getD i 0 := by
  rw [nameSet, toList_nameOfFn]
  simp [h]

/-! ### Lengths -/

@[simp] theorem length_encHeader (h : Header) : (encHeader h).length = 28 := by simp [encHeader]

@[simp] theorem length_encPacket (h : Header) (p : List Byte) : (encPacket h p).length = 28 + p.length := by
  simp [encPacket]

@[simp] theorem State.length_payload (s : State) : s.payload.length = s.tpktLen.toNat := by simp [State.payload]

@[simp] theorem State.length_flatPacket (s : State) : s.flatPacket.length = 28 + s.tpktLen.toNat := by
  simp [State.flatPacket]

/-- A name has at most 16 bytes. -/
theorem length_nameGet_le (f : NameField) : (nameGet f).length ≤ 16 := by
  have h := (List.takeWhile_sublist (p := fun b : Byte => b != 0) (l := f.toList)).length_le
  simpa [nameGet] using h

/-- Every status code is one of the 19 (R113). -/
theorem Status.mem_all (st : Status) : st ∈ Status.all := by cases st <;> decide

/-- Different statuses have different codes (R113). -/
theorem Status.code_injective (a b : Status) (h : a.code = b.code) : a = b := by
  revert h; cases a <;> cases b <;> decide

end Sys2Proof.Machine
end

