-- ==== Sys2Proof/Laws/Decode.lean ====
section
/-! SUPPORT. The laws of the command word's slots and of the operand codes, from which the round trips follow. -/

namespace Sys2Proof

/-- A command word as a number (R105). -/
theorem Slots.toNat_toWord (f : Slots) :
    f.toWord.toNat = f.op.toNat + 2 ^ 8 * f.a.toNat + 2 ^ 16 * f.b.toNat + 2 ^ 32 * f.d.toNat := by
  have ho := f.op.isLt
  have ha := f.a.isLt
  have hb := f.b.isLt
  simp only [Slots.toWord, BitVec.toNat_append]
  rw [← Nat.shiftLeft_add_eq_or_of_lt hb, ← Nat.shiftLeft_add_eq_or_of_lt ha, ← Nat.shiftLeft_add_eq_or_of_lt ho]
  simp only [Nat.shiftLeft_eq]
  omega

/-- The slots of a composed word are the slots it was composed of (R105). -/
theorem Slots.ofWord_toWord (f : Slots) : Slots.ofWord f.toWord = f := by
  have ho := f.op.isLt
  have ha := f.a.isLt
  have hb := f.b.isLt
  have hd := f.d.isLt
  have e : ∀ start len, (f.toWord.extractLsb' start len).toNat = f.toWord.toNat / 2 ^ start % 2 ^ len := fun start len => by
    rw [BitVec.extractLsb'_toNat, Nat.shiftRight_eq_div_pow]
  cases f
  simp only [Slots.ofWord, Slots.mk.injEq]
  refine ⟨?_, ?_, ?_, ?_⟩ <;>
  · apply BitVec.eq_of_toNat_eq
    rw [e, Slots.toNat_toWord]
    simp only at *
    omega

/-- A word is the composition of its slots (R105). -/
theorem Slots.toWord_ofWord (w : Cmd) : (Slots.ofWord w).toWord = w := by
  apply BitVec.eq_of_toNat_eq
  have h := w.isLt
  rw [Slots.toNat_toWord]
  simp only [Slots.ofWord, BitVec.extractLsb'_toNat, Nat.shiftRight_eq_div_pow]
  omega

@[simp] theorem Opcode.ofCode_code (o : Opcode) : Opcode.ofCode o.code = some o := by cases o <;> rfl

/-- Only its own code selects an operation (R110). -/
theorem Opcode.code_of_ofCode (b : Byte) (o : Opcode) (h : Opcode.ofCode b = some o) : b = o.code := by
  revert b o
  decide

@[simp] theorem Bank.ofBits_bits (k : Bank) : Bank.ofBits k.bits = some k := by cases k <;> rfl

theorem Bank.bits_of_ofBits (b : BitVec 2) (k : Bank) (h : Bank.ofBits b = some k) : b = k.bits := by
  revert b k
  decide

@[simp] theorem Field.ofSelector_selector (f : Field) : Field.ofSelector f.selector = some f := by
  cases f with
  | name i => revert i; decide
  | _ => rfl

theorem Field.selector_of_ofSelector (b : Byte) (f : Field) (h : Field.ofSelector b = some f) : b = f.selector := by
  have key : ∀ b : Byte, (Field.ofSelector b).all (fun f => b == f.selector) = true := by decide
  have := key b
  rw [h] at this
  simpa using this

/-! ### A sub-protocol operand in `b[7:5]` (R110) -/

theorem spSlot_low (sp : BitVec 3) : (0#8 ++ sp ++ 0#5 : Half).extractLsb' 0 5 = 0 := by revert sp; decide

theorem spSlot_tag (sp : BitVec 3) : (0#8 ++ sp ++ 0#5 : Half).extractLsb' 5 3 = sp := by revert sp; decide

theorem spSlot_high (sp : BitVec 3) : (0#8 ++ sp ++ 0#5 : Half).extractLsb' 8 8 = 0 := by revert sp; decide

theorem spSlot_toNat (sp : BitVec 3) : (0#8 ++ sp ++ 0#5 : Half).toNat = sp.toNat * 32 := by revert sp; decide

/-- With its MBZ bits clear the slot is the tag's. -/
theorem spSlot_of (b : Half) (h1 : b.extractLsb' 0 5 = 0) (h2 : b.extractLsb' 8 8 = 0) :
    (0#8 ++ b.extractLsb' 5 3 ++ 0#5 : Half) = b := by
  have key : (0#8 ++ b.extractLsb' 5 3 ++ 0#5 : Half).toNat = (b.extractLsb' 5 3).toNat * 32 := by
    generalize b.extractLsb' 5 3 = x; revert x; decide
  apply BitVec.eq_of_toNat_eq
  have e1 := congrArg BitVec.toNat h1
  have e2 := congrArg BitVec.toNat h2
  have hb := b.isLt
  simp only [BitVec.extractLsb'_toNat, Nat.shiftRight_eq_div_pow] at *
  have z : ∀ n, (0 : BitVec n).toNat = 0 := fun n => by simp
  rw [z] at e1 e2
  omega

/-! ### The operands of `GETRATE`: tag in `a[7:5]`, index in `b[4:0]` (R110) -/

theorem tagSlot_low (sp : BitVec 3) : (sp ++ 0#5 : Byte).extractLsb' 0 5 = 0 := by revert sp; decide

theorem tagSlot_tag (sp : BitVec 3) : (sp ++ 0#5 : Byte).extractLsb' 5 3 = sp := by revert sp; decide

theorem tagSlot_toNat (sp : BitVec 3) : (sp ++ 0#5 : Byte).toNat = sp.toNat * 32 := by revert sp; decide

/-- With its MBZ bits clear the slot is the operand's. -/
theorem tagSlot_of (b : Byte) (h1 : b.extractLsb' 0 5 = 0) : (b.extractLsb' 5 3 ++ 0#5 : Byte) = b := by revert b; decide

theorem idxSlot_idx (x : BitVec 5) : (0#11 ++ x : Half).extractLsb' 0 5 = x := by revert x; decide

theorem idxSlot_high (x : BitVec 5) : (0#11 ++ x : Half).extractLsb' 5 11 = 0 := by revert x; decide

theorem idxSlot_toNat (x : BitVec 5) : (0#11 ++ x : Half).toNat = x.toNat := by revert x; decide

/-- With its MBZ bits clear the slot is the operand's. -/
theorem idxSlot_of (b : Half) (h1 : b.extractLsb' 5 11 = 0) : (0#11 ++ b.extractLsb' 0 5 : Half) = b := by
  have key : (0#11 ++ b.extractLsb' 0 5 : Half).toNat = (b.extractLsb' 0 5).toNat := by
    generalize b.extractLsb' 0 5 = x; revert x; decide
  apply BitVec.eq_of_toNat_eq
  have e1 := congrArg BitVec.toNat h1
  have hb := b.isLt
  simp only [BitVec.extractLsb'_toNat, Nat.shiftRight_eq_div_pow] at *
  have z : ∀ n, (0 : BitVec n).toNat = 0 := fun n => by simp
  rw [z] at e1
  omega

/-! ### A data type in `a[2:0]` (R110) -/

theorem dtSlot_dt (x : BitVec 3) : (0#5 ++ x : Byte).extractLsb' 0 3 = x := by revert x; decide

theorem dtSlot_high (x : BitVec 3) : (0#5 ++ x : Byte).extractLsb' 3 5 = 0 := by revert x; decide

theorem dtSlot_toNat (x : BitVec 3) : (0#5 ++ x : Byte).toNat = x.toNat := by revert x; decide

/-- With its MBZ bits clear the slot is the operand's. -/
theorem dtSlot_of (b : Byte) (h1 : b.extractLsb' 3 5 = 0) : (0#5 ++ b.extractLsb' 0 3 : Byte) = b := by revert b; decide

/-! ### A field selector in `b[7:0]` (R108) -/

theorem selSlot_low (x : Byte) : (0#8 ++ x : Half).extractLsb' 0 8 = x := by revert x; decide

theorem selSlot_high (x : Byte) : (0#8 ++ x : Half).extractLsb' 8 8 = 0 := by revert x; decide

/-- With its MBZ bits clear the slot is the operand's. -/
theorem selSlot_of (b : Half) (h1 : b.extractLsb' 8 8 = 0) : (0#8 ++ b.extractLsb' 0 8 : Half) = b := by
  have key : (0#8 ++ b.extractLsb' 0 8 : Half).toNat = (b.extractLsb' 0 8).toNat := by
    generalize b.extractLsb' 0 8 = x; revert x; decide
  apply BitVec.eq_of_toNat_eq
  have e1 := congrArg BitVec.toNat h1
  have hb := b.isLt
  simp only [BitVec.extractLsb'_toNat, Nat.shiftRight_eq_div_pow] at *
  have z : ∀ n, (0 : BitVec n).toNat = 0 := fun n => by simp
  rw [z] at e1
  omega

/-! ### A byte in `d[7:0]` (R110, `STB`) -/

theorem byteSlot_low (x : Byte) : (0#24 ++ x : Word).extractLsb' 0 8 = x := by revert x; decide

theorem byteSlot_high (x : Byte) : (0#24 ++ x : Word).extractLsb' 8 24 = 0 := by revert x; decide

theorem byteSlot_toNat (x : Byte) : (0#24 ++ x : Word).toNat = x.toNat := by revert x; decide

/-- With its MBZ bits clear the slot is the operand's. -/
theorem byteSlot_of (b : Word) (h1 : b.extractLsb' 8 24 = 0) : (0#24 ++ b.extractLsb' 0 8 : Word) = b := by
  have key : (0#24 ++ b.extractLsb' 0 8 : Word).toNat = (b.extractLsb' 0 8).toNat := by
    generalize b.extractLsb' 0 8 = x; revert x; decide
  apply BitVec.eq_of_toNat_eq
  have e1 := congrArg BitVec.toNat h1
  have hb := b.isLt
  simp only [BitVec.extractLsb'_toNat, Nat.shiftRight_eq_div_pow] at *
  have z : ∀ n, (0 : BitVec n).toNat = 0 := fun n => by simp
  rw [z] at e1
  omega

/-! ### The operands of `SETAFMT` in `b` (R110) -/

theorem afmtSlot_toNat (idx : BitVec 5) (dt : BitVec 3) (rsv : BitVec 1) (codec : BitVec 4) :
    (codec ++ rsv ++ dt ++ 0#3 ++ idx : Half).toNat =
      idx.toNat + dt.toNat * 2 ^ 8 + rsv.toNat * 2 ^ 11 + codec.toNat * 2 ^ 12 := by
  have h1 := idx.isLt
  have h2 := dt.isLt
  have h3 := rsv.isLt
  have h4 := codec.isLt
  simp only [BitVec.toNat_append]
  rw [← Nat.shiftLeft_add_eq_or_of_lt h3, ← Nat.shiftLeft_add_eq_or_of_lt h2, 
    ← Nat.shiftLeft_add_eq_or_of_lt (by decide : (0#3).toNat < 2 ^ 3), ← Nat.shiftLeft_add_eq_or_of_lt h1]
  simp only [Nat.shiftLeft_eq]
  have : (0#3).toNat = 0 := rfl
  omega

theorem afmtSlot_fields (idx : BitVec 5) (dt : BitVec 3) (rsv : BitVec 1) (codec : BitVec 4) :
    (codec ++ rsv ++ dt ++ 0#3 ++ idx : Half).extractLsb' 0 5 = idx ∧
      (codec ++ rsv ++ dt ++ 0#3 ++ idx : Half).extractLsb' 5 3 = 0 ∧
      (codec ++ rsv ++ dt ++ 0#3 ++ idx : Half).extractLsb' 8 3 = dt ∧
      (codec ++ rsv ++ dt ++ 0#3 ++ idx : Half).extractLsb' 11 1 = rsv ∧
      (codec ++ rsv ++ dt ++ 0#3 ++ idx : Half).extractLsb' 12 4 = codec := by
  have h1 := idx.isLt
  have h2 := dt.isLt
  have h3 := rsv.isLt
  have h4 := codec.isLt
  have h := afmtSlot_toNat idx dt rsv codec
  generalize (codec ++ rsv ++ dt ++ 0#3 ++ idx : Half) = x at h
  refine ⟨?_, ?_, ?_, ?_, ?_⟩ <;>
  · apply BitVec.eq_of_toNat_eq
    rw [BitVec.extractLsb'_toNat, Nat.shiftRight_eq_div_pow, h]
    first | omega | (show _ = 0; omega)

/-- With its MBZ bits clear the slot is the operand's. -/
theorem afmtSlot_of (b : Half) (h1 : b.extractLsb' 5 3 = 0) :
   (b.extractLsb' 12 4 ++ b.extractLsb' 11 1 ++ b.extractLsb' 8 3 ++ 0#3 ++ b.extractLsb' 0 5 : Half) = b := by
  apply BitVec.eq_of_toNat_eq
  rw [afmtSlot_toNat]
  have e1 := congrArg BitVec.toNat h1
  have hb := b.isLt
  simp only [BitVec.extractLsb'_toNat, Nat.shiftRight_eq_div_pow] at *
  have z : ∀ n, (0 : BitVec n).toNat = 0 := fun n => by simp
  rw [z] at e1
  omega

/-! ### The forms that decodeOperands shares, taken apart -/

theorem decodeBank_bankSlot (k : Bank) (c : Bool) (hc : c = true) (mk) : decodeBank (bankSlot k) c mk = mk k := by
  subst hc
  cases k <;> rfl

/-- With its MBZ bits clear the slot is the operand's. -/
theorem bankSlot_of (a : Byte) (k : Bank) (h : a.extractLsb' 2 6 = 0)
    (hk : Bank.ofBits (a.extractLsb' 0 2) = some k) : bankSlot k = a := by
  revert a; cases k <;> decide

/-- What a decoded bank command says of its `a` slot and its MBZ bits. -/
theorem decodeBank_ok {a : Byte} {c : Bool} {mk} {i : Instr} (h : decodeBank a c mk = .ok i) :
    ∃ k, a = bankSlot k ∧ c = true ∧ mk k = .ok i := by
  unfold decodeBank at h
  split at h
  · rename_i hc
    split at h
    · exact ⟨_, (bankSlot_of _ _ hc.1 ‹_›).symm, hc.2, h⟩
    · cases h
  · cases h

/-- What a decoded field command says of its selector. -/
theorem decodeField_ok {f : Byte} {mk} {i : Instr} (h : decodeField f mk = .ok i) :
    ∃ g : Field, f = g.selector ∧ mk g = .ok i := by
  unfold decodeField at h
  split at h
  · exact ⟨_, Field.selector_of_ofSelector _ _ ‹_›, h⟩
  · cases h

/-- What a decoded address command says of its slots. -/
theorem decodeAddress_ok {s : Slots} {mk} {i : Instr} (h : decodeAddress s mk = .ok i) :
    ∃ r, s.a = addressValid r ∧ s.b = 0 ∧ s.d = r.getD 0 ∧ mk r = i := by
  unfold decodeAddress at h
  have a1 : ∀ a : Byte, a.extractLsb' 1 7 = 0 → a.extractLsb' 0 1 = 1 → a = 1 := by decide
  have a0 : ∀ a : Byte, a.extractLsb' 1 7 = 0 → a.extractLsb' 0 1 ≠ 1 → a = 0 := by decide
  split_ifs at h with h1 h2 h3
  · cases h; exact ⟨some s.d, a1 _ h1.1 h2, h1.2, rfl, rfl⟩
  · cases h; exact ⟨none, a0 _ h1.1 h2, h1.2, h3, rfl⟩

end Sys2Proof
end

