-- ==== Sys2Proof/Laws/State.lean ====
section
/-! SUPPORT. What each shared update of State leaves in each field, one lemma a field, so that no later proof unfolds a record
update; then the same for the derived reads (banks, spaces, the packed endpoint register). -/

namespace Sys2Proof.Machine

variable (s : State)

@[simp] theorem State.raise_eq (e : Status) (v : Word) : s.raise e v = s.respond e v := rfl
@[simp] theorem State.refuse_eq : s.refuse = s.respond .valIllegal 0 := rfl

/-! ### respond -/

@[simp] theorem State.respond_cfg (st : Status) (v : Word) : (s.respond st v).cfg = s.cfg := rfl
@[simp] theorem State.respond_h0 (st : Status) (v : Word) : (s.respond st v).h0 = s.h0 := rfl
@[simp] theorem State.respond_h1 (st : Status) (v : Word) : (s.respond st v).h1 = s.h1 := rfl
@[simp] theorem State.respond_h2 (st : Status) (v : Word) : (s.respond st v).h2 = s.h2 := rfl
@[simp] theorem State.respond_nbuf (st : Status) (v : Word) : (s.respond st v).nbuf = s.nbuf := rfl
@[simp] theorem State.respond_nlen (st : Status) (v : Word) : (s.respond st v).nlen = s.nlen := rfl
@[simp] theorem State.respond_nres (st : Status) (v : Word) : (s.respond st v).nres = s.nres := rfl
@[simp] theorem State.respond_nresLen (st : Status) (v : Word) : (s.respond st v).nresLen = s.nresLen := rfl
@[simp] theorem State.respond_tpktValid (st : Status) (v : Word) : (s.respond st v).tpktValid = s.tpktValid := rfl
@[simp] theorem State.respond_tpktLen (st : Status) (v : Word) : (s.respond st v).tpktLen = s.tpktLen := rfl
@[simp] theorem State.respond_tpmem (st : Status) (v : Word) : (s.respond st v).tpmem = s.tpmem := rfl
@[simp] theorem State.respond_rpktValid (st : Status) (v : Word) : (s.respond st v).rpktValid = s.rpktValid := rfl
@[simp] theorem State.respond_rpktLen (st : Status) (v : Word) : (s.respond st v).rpktLen = s.rpktLen := rfl
@[simp] theorem State.respond_rpmem (st : Status) (v : Word) : (s.respond st v).rpmem = s.rpmem := rfl
@[simp] theorem State.respond_txbuf (st : Status) (v : Word) : (s.respond st v).txbuf = s.txbuf := rfl
@[simp] theorem State.respond_txlen (st : Status) (v : Word) : (s.respond st v).txlen = s.txlen := rfl
@[simp] theorem State.respond_rxbuf (st : Status) (v : Word) : (s.respond st v).rxbuf = s.rxbuf := rfl
@[simp] theorem State.respond_rxlen (st : Status) (v : Word) : (s.respond st v).rxlen = s.rxlen := rfl
@[simp] theorem State.respond_epOpen (st : Status) (v : Word) : (s.respond st v).epOpen = s.epOpen := rfl
@[simp] theorem State.respond_epHasRemote (st : Status) (v : Word) : (s.respond st v).epHasRemote = s.epHasRemote := rfl
@[simp] theorem State.respond_epRemote (st : Status) (v : Word) : (s.respond st v).epRemote = s.epRemote := rfl
@[simp] theorem State.respond_epRxPending (st : Status) (v : Word) : (s.respond st v).epRxPending = s.epRxPending := rfl
@[simp] theorem State.respond_epRxDone (st : Status) (v : Word) : (s.respond st v).epRxDone = s.epRxDone := rfl
@[simp] theorem State.respond_rxStatus (st : Status) (v : Word) : (s.respond st v).rxStatus = s.rxStatus := rfl
@[simp] theorem State.respond_rxInfo (st : Status) (v : Word) : (s.respond st v).rxInfo = s.rxInfo := rfl
@[simp] theorem State.respond_raddr (st : Status) (v : Word) : (s.respond st v).raddr = s.raddr := rfl
@[simp] theorem State.respond_raddrValid (st : Status) (v : Word) : (s.respond st v).raddrValid = s.raddrValid := rfl
@[simp] theorem State.respond_env (st : Status) (v : Word) : (s.respond st v).env = s.env := rfl
@[simp] theorem State.respond_inputs (st : Status) (v : Word) : (s.respond st v).inputs = s.inputs := rfl
@[simp] theorem State.respond_responses (st : Status) (v : Word) : (s.respond st v).responses = s.responses ++ [{ status := st, value := v }] := rfl
@[simp] theorem State.respond_offered (st : Status) (v : Word) : (s.respond st v).offered = s.offered := rfl
@[simp] theorem State.respond_draws (st : Status) (v : Word) : (s.respond st v).draws = s.draws := rfl

/-! ### offer -/

@[simp] theorem State.offer_cfg (bs : List Byte) (d : Word) : (s.offer bs d).cfg = s.cfg := rfl
@[simp] theorem State.offer_h0 (bs : List Byte) (d : Word) : (s.offer bs d).h0 = s.h0 := rfl
@[simp] theorem State.offer_h1 (bs : List Byte) (d : Word) : (s.offer bs d).h1 = s.h1 := rfl
@[simp] theorem State.offer_h2 (bs : List Byte) (d : Word) : (s.offer bs d).h2 = s.h2 := rfl
@[simp] theorem State.offer_nbuf (bs : List Byte) (d : Word) : (s.offer bs d).nbuf = s.nbuf := rfl
@[simp] theorem State.offer_nlen (bs : List Byte) (d : Word) : (s.offer bs d).nlen = s.nlen := rfl
@[simp] theorem State.offer_nres (bs : List Byte) (d : Word) : (s.offer bs d).nres = s.nres := rfl
@[simp] theorem State.offer_nresLen (bs : List Byte) (d : Word) : (s.offer bs d).nresLen = s.nresLen := rfl
@[simp] theorem State.offer_tpktValid (bs : List Byte) (d : Word) : (s.offer bs d).tpktValid = s.tpktValid := rfl
@[simp] theorem State.offer_tpktLen (bs : List Byte) (d : Word) : (s.offer bs d).tpktLen = s.tpktLen := rfl
@[simp] theorem State.offer_tpmem (bs : List Byte) (d : Word) : (s.offer bs d).tpmem = s.tpmem := rfl
@[simp] theorem State.offer_rpktValid (bs : List Byte) (d : Word) : (s.offer bs d).rpktValid = s.rpktValid := rfl
@[simp] theorem State.offer_rpktLen (bs : List Byte) (d : Word) : (s.offer bs d).rpktLen = s.rpktLen := rfl
@[simp] theorem State.offer_rpmem (bs : List Byte) (d : Word) : (s.offer bs d).rpmem = s.rpmem := rfl
@[simp] theorem State.offer_txbuf (bs : List Byte) (d : Word) : (s.offer bs d).txbuf = s.txbuf := rfl
@[simp] theorem State.offer_txlen (bs : List Byte) (d : Word) : (s.offer bs d).txlen = s.txlen := rfl
@[simp] theorem State.offer_rxbuf (bs : List Byte) (d : Word) : (s.offer bs d).rxbuf = s.rxbuf := rfl
@[simp] theorem State.offer_rxlen (bs : List Byte) (d : Word) : (s.offer bs d).rxlen = s.rxlen := rfl
@[simp] theorem State.offer_epOpen (bs : List Byte) (d : Word) : (s.offer bs d).epOpen = s.epOpen := rfl
@[simp] theorem State.offer_epHasRemote (bs : List Byte) (d : Word) : (s.offer bs d).epHasRemote = s.epHasRemote := rfl
@[simp] theorem State.offer_epRemote (bs : List Byte) (d : Word) : (s.offer bs d).epRemote = s.epRemote := rfl
@[simp] theorem State.offer_epRxPending (bs : List Byte) (d : Word) : (s.offer bs d).epRxPending = s.epRxPending := rfl
@[simp] theorem State.offer_epRxDone (bs : List Byte) (d : Word) : (s.offer bs d).epRxDone = s.epRxDone := rfl
@[simp] theorem State.offer_rxStatus (bs : List Byte) (d : Word) : (s.offer bs d).rxStatus = s.rxStatus := rfl
@[simp] theorem State.offer_rxInfo (bs : List Byte) (d : Word) : (s.offer bs d).rxInfo = s.rxInfo := rfl
@[simp] theorem State.offer_raddr (bs : List Byte) (d : Word) : (s.offer bs d).raddr = s.raddr := rfl
@[simp] theorem State.offer_raddrValid (bs : List Byte) (d : Word) : (s.offer bs d).raddrValid = s.raddrValid := rfl
@[simp] theorem State.offer_env (bs : List Byte) (d : Word) : (s.offer bs d).env = s.env := rfl
@[simp] theorem State.offer_inputs (bs : List Byte) (d : Word) : (s.offer bs d).inputs = s.inputs := rfl
@[simp] theorem State.offer_responses (bs : List Byte) (d : Word) : (s.offer bs d).responses = s.responses := rfl
@[simp] theorem State.offer_offered (bs : List Byte) (d : Word) : (s.offer bs d).offered = s.offered ++ [{ bytes := bs, dest := d }] := rfl
@[simp] theorem State.offer_draws (bs : List Byte) (d : Word) : (s.offer bs d).draws = s.draws := rfl

/-! ### compose -/

@[simp] theorem State.compose_cfg (bs : List Byte) : (s.compose bs).cfg = s.cfg := rfl
@[simp] theorem State.compose_h0 (bs : List Byte) : (s.compose bs).h0 = s.h0 := rfl
@[simp] theorem State.compose_h1 (bs : List Byte) : (s.compose bs).h1 = s.h1 := rfl
@[simp] theorem State.compose_h2 (bs : List Byte) : (s.compose bs).h2 = s.h2 := rfl
@[simp] theorem State.compose_nbuf (bs : List Byte) : (s.compose bs).nbuf = s.nbuf := rfl
@[simp] theorem State.compose_nlen (bs : List Byte) : (s.compose bs).nlen = s.nlen := rfl
@[simp] theorem State.compose_nres (bs : List Byte) : (s.compose bs).nres = s.nres := rfl
@[simp] theorem State.compose_nresLen (bs : List Byte) : (s.compose bs).nresLen = s.nresLen := rfl
@[simp] theorem State.compose_tpktValid (bs : List Byte) : (s.compose bs).tpktValid = s.tpktValid := rfl
@[simp] theorem State.compose_tpktLen (bs : List Byte) : (s.compose bs).tpktLen = s.tpktLen := rfl
@[simp] theorem State.compose_tpmem (bs : List Byte) : (s.compose bs).tpmem = s.tpmem := rfl
@[simp] theorem State.compose_rpktValid (bs : List Byte) : (s.compose bs).rpktValid = s.rpktValid := rfl
@[simp] theorem State.compose_rpktLen (bs : List Byte) : (s.compose bs).rpktLen = s.rpktLen := rfl
@[simp] theorem State.compose_rpmem (bs : List Byte) : (s.compose bs).rpmem = s.rpmem := rfl
@[simp] theorem State.compose_txbuf (bs : List Byte) : (s.compose bs).txbuf = Memory.write s.txbuf 0 bs := rfl
@[simp] theorem State.compose_txlen (bs : List Byte) : (s.compose bs).txlen = BitVec.ofNat 11 bs.length := rfl
@[simp] theorem State.compose_rxbuf (bs : List Byte) : (s.compose bs).rxbuf = s.rxbuf := rfl
@[simp] theorem State.compose_rxlen (bs : List Byte) : (s.compose bs).rxlen = s.rxlen := rfl
@[simp] theorem State.compose_epOpen (bs : List Byte) : (s.compose bs).epOpen = s.epOpen := rfl
@[simp] theorem State.compose_epHasRemote (bs : List Byte) : (s.compose bs).epHasRemote = s.epHasRemote := rfl
@[simp] theorem State.compose_epRemote (bs : List Byte) : (s.compose bs).epRemote = s.epRemote := rfl
@[simp] theorem State.compose_epRxPending (bs : List Byte) : (s.compose bs).epRxPending = s.epRxPending := rfl
@[simp] theorem State.compose_epRxDone (bs : List Byte) : (s.compose bs).epRxDone = s.epRxDone := rfl
@[simp] theorem State.compose_rxStatus (bs : List Byte) : (s.compose bs).rxStatus = s.rxStatus := rfl
@[simp] theorem State.compose_rxInfo (bs : List Byte) : (s.compose bs).rxInfo = s.rxInfo := rfl
@[simp] theorem State.compose_raddr (bs : List Byte) : (s.compose bs).raddr = s.raddr := rfl
@[simp] theorem State.compose_raddrValid (bs : List Byte) : (s.compose bs).raddrValid = s.raddrValid := rfl
@[simp] theorem State.compose_env (bs : List Byte) : (s.compose bs).env = s.env := rfl
@[simp] theorem State.compose_inputs (bs : List Byte) : (s.compose bs).inputs = s.inputs := rfl
@[simp] theorem State.compose_responses (bs : List Byte) : (s.compose bs).responses = s.responses := rfl
@[simp] theorem State.compose_offered (bs : List Byte) : (s.compose bs).offered = s.offered := rfl
@[simp] theorem State.compose_draws (bs : List Byte) : (s.compose bs).draws = s.draws := rfl

/-! ### rxComplete -/

@[simp] theorem State.rxComplete_cfg (st : Status) (v : Word) : (s.rxComplete st v).cfg = s.cfg := rfl
@[simp] theorem State.rxComplete_h0 (st : Status) (v : Word) : (s.rxComplete st v).h0 = s.h0 := rfl
@[simp] theorem State.rxComplete_h1 (st : Status) (v : Word) : (s.rxComplete st v).h1 = s.h1 := rfl
@[simp] theorem State.rxComplete_h2 (st : Status) (v : Word) : (s.rxComplete st v).h2 = s.h2 := rfl
@[simp] theorem State.rxComplete_nbuf (st : Status) (v : Word) : (s.rxComplete st v).nbuf = s.nbuf := rfl
@[simp] theorem State.rxComplete_nlen (st : Status) (v : Word) : (s.rxComplete st v).nlen = s.nlen := rfl
@[simp] theorem State.rxComplete_nres (st : Status) (v : Word) : (s.rxComplete st v).nres = s.nres := rfl
@[simp] theorem State.rxComplete_nresLen (st : Status) (v : Word) : (s.rxComplete st v).nresLen = s.nresLen := rfl
@[simp] theorem State.rxComplete_tpktValid (st : Status) (v : Word) : (s.rxComplete st v).tpktValid = s.tpktValid := rfl
@[simp] theorem State.rxComplete_tpktLen (st : Status) (v : Word) : (s.rxComplete st v).tpktLen = s.tpktLen := rfl
@[simp] theorem State.rxComplete_tpmem (st : Status) (v : Word) : (s.rxComplete st v).tpmem = s.tpmem := rfl
@[simp] theorem State.rxComplete_rpktValid (st : Status) (v : Word) : (s.rxComplete st v).rpktValid = s.rpktValid := rfl
@[simp] theorem State.rxComplete_rpktLen (st : Status) (v : Word) : (s.rxComplete st v).rpktLen = s.rpktLen := rfl
@[simp] theorem State.rxComplete_rpmem (st : Status) (v : Word) : (s.rxComplete st v).rpmem = s.rpmem := rfl
@[simp] theorem State.rxComplete_txbuf (st : Status) (v : Word) : (s.rxComplete st v).txbuf = s.txbuf := rfl
@[simp] theorem State.rxComplete_txlen (st : Status) (v : Word) : (s.rxComplete st v).txlen = s.txlen := rfl
@[simp] theorem State.rxComplete_rxbuf (st : Status) (v : Word) : (s.rxComplete st v).rxbuf = s.rxbuf := rfl
@[simp] theorem State.rxComplete_rxlen (st : Status) (v : Word) : (s.rxComplete st v).rxlen = s.rxlen := rfl
@[simp] theorem State.rxComplete_epOpen (st : Status) (v : Word) : (s.rxComplete st v).epOpen = s.epOpen := rfl
@[simp] theorem State.rxComplete_epHasRemote (st : Status) (v : Word) : (s.rxComplete st v).epHasRemote = s.epHasRemote := rfl
@[simp] theorem State.rxComplete_epRemote (st : Status) (v : Word) : (s.rxComplete st v).epRemote = s.epRemote := rfl
@[simp] theorem State.rxComplete_epRxPending (st : Status) (v : Word) : (s.rxComplete st v).epRxPending = false := rfl
@[simp] theorem State.rxComplete_epRxDone (st : Status) (v : Word) : (s.rxComplete st v).epRxDone = true := rfl
@[simp] theorem State.rxComplete_rxStatus (st : Status) (v : Word) : (s.rxComplete st v).rxStatus = st.code := rfl
@[simp] theorem State.rxComplete_rxInfo (st : Status) (v : Word) : (s.rxComplete st v).rxInfo = v := rfl
@[simp] theorem State.rxComplete_raddr (st : Status) (v : Word) : (s.rxComplete st v).raddr = s.raddr := rfl
@[simp] theorem State.rxComplete_raddrValid (st : Status) (v : Word) : (s.rxComplete st v).raddrValid = s.raddrValid := rfl
@[simp] theorem State.rxComplete_env (st : Status) (v : Word) : (s.rxComplete st v).env = s.env := rfl
@[simp] theorem State.rxComplete_inputs (st : Status) (v : Word) : (s.rxComplete st v).inputs = s.inputs := rfl
@[simp] theorem State.rxComplete_responses (st : Status) (v : Word) : (s.rxComplete st v).responses = s.responses := rfl
@[simp] theorem State.rxComplete_offered (st : Status) (v : Word) : (s.rxComplete st v).offered = s.offered := rfl
@[simp] theorem State.rxComplete_draws (st : Status) (v : Word) : (s.rxComplete st v).draws = s.draws := rfl

/-! ### forgetSender -/

@[simp] theorem State.forgetSender_cfg : (s.forgetSender).cfg = s.cfg := rfl
@[simp] theorem State.forgetSender_h0 : (s.forgetSender).h0 = s.h0 := rfl
@[simp] theorem State.forgetSender_h1 : (s.forgetSender).h1 = s.h1 := rfl
@[simp] theorem State.forgetSender_h2 : (s.forgetSender).h2 = s.h2 := rfl
@[simp] theorem State.forgetSender_nbuf : (s.forgetSender).nbuf = s.nbuf := rfl
@[simp] theorem State.forgetSender_nlen : (s.forgetSender).nlen = s.nlen := rfl
@[simp] theorem State.forgetSender_nres : (s.forgetSender).nres = s.nres := rfl
@[simp] theorem State.forgetSender_nresLen : (s.forgetSender).nresLen = s.nresLen := rfl
@[simp] theorem State.forgetSender_tpktValid : (s.forgetSender).tpktValid = s.tpktValid := rfl
@[simp] theorem State.forgetSender_tpktLen : (s.forgetSender).tpktLen = s.tpktLen := rfl
@[simp] theorem State.forgetSender_tpmem : (s.forgetSender).tpmem = s.tpmem := rfl
@[simp] theorem State.forgetSender_rpktValid : (s.forgetSender).rpktValid = s.rpktValid := rfl
@[simp] theorem State.forgetSender_rpktLen : (s.forgetSender).rpktLen = s.rpktLen := rfl
@[simp] theorem State.forgetSender_rpmem : (s.forgetSender).rpmem = s.rpmem := rfl
@[simp] theorem State.forgetSender_txbuf : (s.forgetSender).txbuf = s.txbuf := rfl
@[simp] theorem State.forgetSender_txlen : (s.forgetSender).txlen = s.txlen := rfl
@[simp] theorem State.forgetSender_rxbuf : (s.forgetSender).rxbuf = s.rxbuf := rfl
@[simp] theorem State.forgetSender_rxlen : (s.forgetSender).rxlen = s.rxlen := rfl
@[simp] theorem State.forgetSender_epOpen : (s.forgetSender).epOpen = s.epOpen := rfl
@[simp] theorem State.forgetSender_epHasRemote : (s.forgetSender).epHasRemote = s.epHasRemote := rfl
@[simp] theorem State.forgetSender_epRemote : (s.forgetSender).epRemote = s.epRemote := rfl
@[simp] theorem State.forgetSender_epRxPending : (s.forgetSender).epRxPending = s.epRxPending := rfl
@[simp] theorem State.forgetSender_epRxDone : (s.forgetSender).epRxDone = s.epRxDone := rfl
@[simp] theorem State.forgetSender_rxStatus : (s.forgetSender).rxStatus = s.rxStatus := rfl
@[simp] theorem State.forgetSender_rxInfo : (s.forgetSender).rxInfo = s.rxInfo := rfl
@[simp] theorem State.forgetSender_raddr : (s.forgetSender).raddr = Config.freeWord s.draws := rfl
@[simp] theorem State.forgetSender_raddrValid : (s.forgetSender).raddrValid = Config.freeBit s.draws := rfl
@[simp] theorem State.forgetSender_env : (s.forgetSender).env = s.env := rfl
@[simp] theorem State.forgetSender_inputs : (s.forgetSender).inputs = s.inputs := rfl
@[simp] theorem State.forgetSender_responses : (s.forgetSender).responses = s.responses := rfl
@[simp] theorem State.forgetSender_offered : (s.forgetSender).offered = s.offered := rfl
@[simp] theorem State.forgetSender_draws : (s.forgetSender).draws = s.draws + 1 := rfl

/-! ### forgetRxbuf -/

@[simp] theorem State.forgetRxbuf_cfg : (s.forgetRxbuf).cfg = s.cfg := rfl
@[simp] theorem State.forgetRxbuf_h0 : (s.forgetRxbuf).h0 = s.h0 := rfl
@[simp] theorem State.forgetRxbuf_h1 : (s.forgetRxbuf).h1 = s.h1 := rfl
@[simp] theorem State.forgetRxbuf_h2 : (s.forgetRxbuf).h2 = s.h2 := rfl
@[simp] theorem State.forgetRxbuf_nbuf : (s.forgetRxbuf).nbuf = s.nbuf := rfl
@[simp] theorem State.forgetRxbuf_nlen : (s.forgetRxbuf).nlen = s.nlen := rfl
@[simp] theorem State.forgetRxbuf_nres : (s.forgetRxbuf).nres = s.nres := rfl
@[simp] theorem State.forgetRxbuf_nresLen : (s.forgetRxbuf).nresLen = s.nresLen := rfl
@[simp] theorem State.forgetRxbuf_tpktValid : (s.forgetRxbuf).tpktValid = s.tpktValid := rfl
@[simp] theorem State.forgetRxbuf_tpktLen : (s.forgetRxbuf).tpktLen = s.tpktLen := rfl
@[simp] theorem State.forgetRxbuf_tpmem : (s.forgetRxbuf).tpmem = s.tpmem := rfl
@[simp] theorem State.forgetRxbuf_rpktValid : (s.forgetRxbuf).rpktValid = s.rpktValid := rfl
@[simp] theorem State.forgetRxbuf_rpktLen : (s.forgetRxbuf).rpktLen = s.rpktLen := rfl
@[simp] theorem State.forgetRxbuf_rpmem : (s.forgetRxbuf).rpmem = s.rpmem := rfl
@[simp] theorem State.forgetRxbuf_txbuf : (s.forgetRxbuf).txbuf = s.txbuf := rfl
@[simp] theorem State.forgetRxbuf_txlen : (s.forgetRxbuf).txlen = s.txlen := rfl
@[simp] theorem State.forgetRxbuf_rxbuf : (s.forgetRxbuf).rxbuf = Memory.write s.rxbuf 0 ((List.range 1465).map fun i => Config.freeByte (s.draws + i)) := rfl
@[simp] theorem State.forgetRxbuf_rxlen : (s.forgetRxbuf).rxlen = s.rxlen := rfl
@[simp] theorem State.forgetRxbuf_epOpen : (s.forgetRxbuf).epOpen = s.epOpen := rfl
@[simp] theorem State.forgetRxbuf_epHasRemote : (s.forgetRxbuf).epHasRemote = s.epHasRemote := rfl
@[simp] theorem State.forgetRxbuf_epRemote : (s.forgetRxbuf).epRemote = s.epRemote := rfl
@[simp] theorem State.forgetRxbuf_epRxPending : (s.forgetRxbuf).epRxPending = s.epRxPending := rfl
@[simp] theorem State.forgetRxbuf_epRxDone : (s.forgetRxbuf).epRxDone = s.epRxDone := rfl
@[simp] theorem State.forgetRxbuf_rxStatus : (s.forgetRxbuf).rxStatus = s.rxStatus := rfl
@[simp] theorem State.forgetRxbuf_rxInfo : (s.forgetRxbuf).rxInfo = s.rxInfo := rfl
@[simp] theorem State.forgetRxbuf_raddr : (s.forgetRxbuf).raddr = s.raddr := rfl
@[simp] theorem State.forgetRxbuf_raddrValid : (s.forgetRxbuf).raddrValid = s.raddrValid := rfl
@[simp] theorem State.forgetRxbuf_env : (s.forgetRxbuf).env = s.env := rfl
@[simp] theorem State.forgetRxbuf_inputs : (s.forgetRxbuf).inputs = s.inputs := rfl
@[simp] theorem State.forgetRxbuf_responses : (s.forgetRxbuf).responses = s.responses := rfl
@[simp] theorem State.forgetRxbuf_offered : (s.forgetRxbuf).offered = s.offered := rfl
@[simp] theorem State.forgetRxbuf_draws : (s.forgetRxbuf).draws = s.draws + 1465 := rfl

/-! ### rxFail -/

@[simp] theorem State.rxFail_cfg (st : Status) : (s.rxFail st).cfg = s.cfg := rfl
@[simp] theorem State.rxFail_h0 (st : Status) : (s.rxFail st).h0 = s.h0 := rfl
@[simp] theorem State.rxFail_h1 (st : Status) : (s.rxFail st).h1 = s.h1 := rfl
@[simp] theorem State.rxFail_h2 (st : Status) : (s.rxFail st).h2 = s.h2 := rfl
@[simp] theorem State.rxFail_nbuf (st : Status) : (s.rxFail st).nbuf = s.nbuf := rfl
@[simp] theorem State.rxFail_nlen (st : Status) : (s.rxFail st).nlen = s.nlen := rfl
@[simp] theorem State.rxFail_nres (st : Status) : (s.rxFail st).nres = s.nres := rfl
@[simp] theorem State.rxFail_nresLen (st : Status) : (s.rxFail st).nresLen = s.nresLen := rfl
@[simp] theorem State.rxFail_tpktValid (st : Status) : (s.rxFail st).tpktValid = s.tpktValid := rfl
@[simp] theorem State.rxFail_tpktLen (st : Status) : (s.rxFail st).tpktLen = s.tpktLen := rfl
@[simp] theorem State.rxFail_tpmem (st : Status) : (s.rxFail st).tpmem = s.tpmem := rfl
@[simp] theorem State.rxFail_rpktValid (st : Status) : (s.rxFail st).rpktValid = false := rfl
@[simp] theorem State.rxFail_rpktLen (st : Status) : (s.rxFail st).rpktLen = s.rpktLen := rfl
@[simp] theorem State.rxFail_rpmem (st : Status) : (s.rxFail st).rpmem = s.rpmem := rfl
@[simp] theorem State.rxFail_txbuf (st : Status) : (s.rxFail st).txbuf = s.txbuf := rfl
@[simp] theorem State.rxFail_txlen (st : Status) : (s.rxFail st).txlen = s.txlen := rfl
@[simp] theorem State.rxFail_rxbuf (st : Status) : (s.rxFail st).rxbuf = s.forgetRxbuf.rxbuf := rfl
@[simp] theorem State.rxFail_rxlen (st : Status) : (s.rxFail st).rxlen = 0 := rfl
@[simp] theorem State.rxFail_epOpen (st : Status) : (s.rxFail st).epOpen = s.epOpen := rfl
@[simp] theorem State.rxFail_epHasRemote (st : Status) : (s.rxFail st).epHasRemote = s.epHasRemote := rfl
@[simp] theorem State.rxFail_epRemote (st : Status) : (s.rxFail st).epRemote = s.epRemote := rfl
@[simp] theorem State.rxFail_epRxPending (st : Status) : (s.rxFail st).epRxPending = false := rfl
@[simp] theorem State.rxFail_epRxDone (st : Status) : (s.rxFail st).epRxDone = true := rfl
@[simp] theorem State.rxFail_rxStatus (st : Status) : (s.rxFail st).rxStatus = st.code := rfl
@[simp] theorem State.rxFail_rxInfo (st : Status) : (s.rxFail st).rxInfo = 0 := rfl
@[simp] theorem State.rxFail_raddr (st : Status) : (s.rxFail st).raddr = s.raddr := rfl
@[simp] theorem State.rxFail_raddrValid (st : Status) : (s.rxFail st).raddrValid = false := rfl
@[simp] theorem State.rxFail_env (st : Status) : (s.rxFail st).env = s.env := rfl
@[simp] theorem State.rxFail_inputs (st : Status) : (s.rxFail st).inputs = s.inputs := rfl
@[simp] theorem State.rxFail_responses (st : Status) : (s.rxFail st).responses = s.responses := rfl
@[simp] theorem State.rxFail_offered (st : Status) : (s.rxFail st).offered = s.offered := rfl
@[simp] theorem State.rxFail_draws (st : Status) : (s.rxFail st).draws = s.draws + 1465 := rfl

/-! ### setBank -/

@[simp] theorem State.setBank_cfg (k : Bank) (h : Header) : (s.setBank k h).cfg = s.cfg := by cases k <;> rfl
@[simp] theorem State.setBank_nbuf (k : Bank) (h : Header) : (s.setBank k h).nbuf = s.nbuf := by cases k <;> rfl
@[simp] theorem State.setBank_nlen (k : Bank) (h : Header) : (s.setBank k h).nlen = s.nlen := by cases k <;> rfl
@[simp] theorem State.setBank_nres (k : Bank) (h : Header) : (s.setBank k h).nres = s.nres := by cases k <;> rfl
@[simp] theorem State.setBank_nresLen (k : Bank) (h : Header) : (s.setBank k h).nresLen = s.nresLen := by cases k <;> rfl
@[simp] theorem State.setBank_tpktValid (k : Bank) (h : Header) : (s.setBank k h).tpktValid = s.tpktValid := by cases k <;> rfl
@[simp] theorem State.setBank_tpktLen (k : Bank) (h : Header) : (s.setBank k h).tpktLen = s.tpktLen := by cases k <;> rfl
@[simp] theorem State.setBank_tpmem (k : Bank) (h : Header) : (s.setBank k h).tpmem = s.tpmem := by cases k <;> rfl
@[simp] theorem State.setBank_rpktValid (k : Bank) (h : Header) : (s.setBank k h).rpktValid = s.rpktValid := by cases k <;> rfl
@[simp] theorem State.setBank_rpktLen (k : Bank) (h : Header) : (s.setBank k h).rpktLen = s.rpktLen := by cases k <;> rfl
@[simp] theorem State.setBank_rpmem (k : Bank) (h : Header) : (s.setBank k h).rpmem = s.rpmem := by cases k <;> rfl
@[simp] theorem State.setBank_txbuf (k : Bank) (h : Header) : (s.setBank k h).txbuf = s.txbuf := by cases k <;> rfl
@[simp] theorem State.setBank_txlen (k : Bank) (h : Header) : (s.setBank k h).txlen = s.txlen := by cases k <;> rfl
@[simp] theorem State.setBank_rxbuf (k : Bank) (h : Header) : (s.setBank k h).rxbuf = s.rxbuf := by cases k <;> rfl
@[simp] theorem State.setBank_rxlen (k : Bank) (h : Header) : (s.setBank k h).rxlen = s.rxlen := by cases k <;> rfl
@[simp] theorem State.setBank_epOpen (k : Bank) (h : Header) : (s.setBank k h).epOpen = s.epOpen := by cases k <;> rfl
@[simp] theorem State.setBank_epHasRemote (k : Bank) (h : Header) : (s.setBank k h).epHasRemote = s.epHasRemote := by cases k <;> rfl
@[simp] theorem State.setBank_epRemote (k : Bank) (h : Header) : (s.setBank k h).epRemote = s.epRemote := by cases k <;> rfl
@[simp] theorem State.setBank_epRxPending (k : Bank) (h : Header) : (s.setBank k h).epRxPending = s.epRxPending := by cases k <;> rfl
@[simp] theorem State.setBank_epRxDone (k : Bank) (h : Header) : (s.setBank k h).epRxDone = s.epRxDone := by cases k <;> rfl
@[simp] theorem State.setBank_rxStatus (k : Bank) (h : Header) : (s.setBank k h).rxStatus = s.rxStatus := by cases k <;> rfl
@[simp] theorem State.setBank_rxInfo (k : Bank) (h : Header) : (s.setBank k h).rxInfo = s.rxInfo := by cases k <;> rfl
@[simp] theorem State.setBank_raddr (k : Bank) (h : Header) : (s.setBank k h).raddr = s.raddr := by cases k <;> rfl
@[simp] theorem State.setBank_raddrValid (k : Bank) (h : Header) : (s.setBank k h).raddrValid = s.raddrValid := by cases k <;> rfl
@[simp] theorem State.setBank_env (k : Bank) (h : Header) : (s.setBank k h).env = s.env := by cases k <;> rfl
@[simp] theorem State.setBank_inputs (k : Bank) (h : Header) : (s.setBank k h).inputs = s.inputs := by cases k <;> rfl
@[simp] theorem State.setBank_responses (k : Bank) (h : Header) : (s.setBank k h).responses = s.responses := by cases k <;> rfl
@[simp] theorem State.setBank_offered (k : Bank) (h : Header) : (s.setBank k h).offered = s.offered := by cases k <;> rfl
@[simp] theorem State.setBank_draws (k : Bank) (h : Header) : (s.setBank k h).draws = s.draws := by cases k <;> rfl

/-! ### forgetBank -/

@[simp] theorem State.forgetBank_cfg (k : Bank) : (s.forgetBank k).cfg = s.cfg := by cases k <;> rfl
@[simp] theorem State.forgetBank_nbuf (k : Bank) : (s.forgetBank k).nbuf = s.nbuf := by cases k <;> rfl
@[simp] theorem State.forgetBank_nlen (k : Bank) : (s.forgetBank k).nlen = s.nlen := by cases k <;> rfl
@[simp] theorem State.forgetBank_nres (k : Bank) : (s.forgetBank k).nres = s.nres := by cases k <;> rfl
@[simp] theorem State.forgetBank_nresLen (k : Bank) : (s.forgetBank k).nresLen = s.nresLen := by cases k <;> rfl
@[simp] theorem State.forgetBank_tpktValid (k : Bank) : (s.forgetBank k).tpktValid = s.tpktValid := by cases k <;> rfl
@[simp] theorem State.forgetBank_tpktLen (k : Bank) : (s.forgetBank k).tpktLen = s.tpktLen := by cases k <;> rfl
@[simp] theorem State.forgetBank_tpmem (k : Bank) : (s.forgetBank k).tpmem = s.tpmem := by cases k <;> rfl
@[simp] theorem State.forgetBank_rpktValid (k : Bank) : (s.forgetBank k).rpktValid = s.rpktValid := by cases k <;> rfl
@[simp] theorem State.forgetBank_rpktLen (k : Bank) : (s.forgetBank k).rpktLen = s.rpktLen := by cases k <;> rfl
@[simp] theorem State.forgetBank_rpmem (k : Bank) : (s.forgetBank k).rpmem = s.rpmem := by cases k <;> rfl
@[simp] theorem State.forgetBank_txbuf (k : Bank) : (s.forgetBank k).txbuf = s.txbuf := by cases k <;> rfl
@[simp] theorem State.forgetBank_txlen (k : Bank) : (s.forgetBank k).txlen = s.txlen := by cases k <;> rfl
@[simp] theorem State.forgetBank_rxbuf (k : Bank) : (s.forgetBank k).rxbuf = s.rxbuf := by cases k <;> rfl
@[simp] theorem State.forgetBank_rxlen (k : Bank) : (s.forgetBank k).rxlen = s.rxlen := by cases k <;> rfl
@[simp] theorem State.forgetBank_epOpen (k : Bank) : (s.forgetBank k).epOpen = s.epOpen := by cases k <;> rfl
@[simp] theorem State.forgetBank_epHasRemote (k : Bank) : (s.forgetBank k).epHasRemote = s.epHasRemote := by cases k <;> rfl
@[simp] theorem State.forgetBank_epRemote (k : Bank) : (s.forgetBank k).epRemote = s.epRemote := by cases k <;> rfl
@[simp] theorem State.forgetBank_epRxPending (k : Bank) : (s.forgetBank k).epRxPending = s.epRxPending := by cases k <;> rfl
@[simp] theorem State.forgetBank_epRxDone (k : Bank) : (s.forgetBank k).epRxDone = s.epRxDone := by cases k <;> rfl
@[simp] theorem State.forgetBank_rxStatus (k : Bank) : (s.forgetBank k).rxStatus = s.rxStatus := by cases k <;> rfl
@[simp] theorem State.forgetBank_rxInfo (k : Bank) : (s.forgetBank k).rxInfo = s.rxInfo := by cases k <;> rfl
@[simp] theorem State.forgetBank_raddr (k : Bank) : (s.forgetBank k).raddr = s.raddr := by cases k <;> rfl
@[simp] theorem State.forgetBank_raddrValid (k : Bank) : (s.forgetBank k).raddrValid = s.raddrValid := by cases k <;> rfl
@[simp] theorem State.forgetBank_env (k : Bank) : (s.forgetBank k).env = s.env := by cases k <;> rfl
@[simp] theorem State.forgetBank_inputs (k : Bank) : (s.forgetBank k).inputs = s.inputs := by cases k <;> rfl
@[simp] theorem State.forgetBank_responses (k : Bank) : (s.forgetBank k).responses = s.responses := by cases k <;> rfl
@[simp] theorem State.forgetBank_offered (k : Bank) : (s.forgetBank k).offered = s.offered := by cases k <;> rfl
@[simp] theorem State.forgetBank_draws (k : Bank) : (s.forgetBank k).draws = s.draws + 20 := by cases k <;> rfl

/-! ### setSpace -/

@[simp] theorem State.setSpace_cfg (sp : Space) (m : Memory) : (s.setSpace sp m).cfg = s.cfg := by cases sp <;> rfl
@[simp] theorem State.setSpace_h0 (sp : Space) (m : Memory) : (s.setSpace sp m).h0 = s.h0 := by cases sp <;> rfl
@[simp] theorem State.setSpace_h1 (sp : Space) (m : Memory) : (s.setSpace sp m).h1 = s.h1 := by cases sp <;> rfl
@[simp] theorem State.setSpace_h2 (sp : Space) (m : Memory) : (s.setSpace sp m).h2 = s.h2 := by cases sp <;> rfl
@[simp] theorem State.setSpace_nlen (sp : Space) (m : Memory) : (s.setSpace sp m).nlen = s.nlen := by cases sp <;> rfl
@[simp] theorem State.setSpace_nresLen (sp : Space) (m : Memory) : (s.setSpace sp m).nresLen = s.nresLen := by cases sp <;> rfl
@[simp] theorem State.setSpace_tpktValid (sp : Space) (m : Memory) : (s.setSpace sp m).tpktValid = s.tpktValid := by cases sp <;> rfl
@[simp] theorem State.setSpace_tpktLen (sp : Space) (m : Memory) : (s.setSpace sp m).tpktLen = s.tpktLen := by cases sp <;> rfl
@[simp] theorem State.setSpace_rpktValid (sp : Space) (m : Memory) : (s.setSpace sp m).rpktValid = s.rpktValid := by cases sp <;> rfl
@[simp] theorem State.setSpace_rpktLen (sp : Space) (m : Memory) : (s.setSpace sp m).rpktLen = s.rpktLen := by cases sp <;> rfl
@[simp] theorem State.setSpace_txlen (sp : Space) (m : Memory) : (s.setSpace sp m).txlen = s.txlen := by cases sp <;> rfl
@[simp] theorem State.setSpace_rxlen (sp : Space) (m : Memory) : (s.setSpace sp m).rxlen = s.rxlen := by cases sp <;> rfl
@[simp] theorem State.setSpace_epOpen (sp : Space) (m : Memory) : (s.setSpace sp m).epOpen = s.epOpen := by cases sp <;> rfl
@[simp] theorem State.setSpace_epHasRemote (sp : Space) (m : Memory) : (s.setSpace sp m).epHasRemote = s.epHasRemote := by cases sp <;> rfl
@[simp] theorem State.setSpace_epRemote (sp : Space) (m : Memory) : (s.setSpace sp m).epRemote = s.epRemote := by cases sp <;> rfl
@[simp] theorem State.setSpace_epRxPending (sp : Space) (m : Memory) : (s.setSpace sp m).epRxPending = s.epRxPending := by cases sp <;> rfl
@[simp] theorem State.setSpace_epRxDone (sp : Space) (m : Memory) : (s.setSpace sp m).epRxDone = s.epRxDone := by cases sp <;> rfl
@[simp] theorem State.setSpace_rxStatus (sp : Space) (m : Memory) : (s.setSpace sp m).rxStatus = s.rxStatus := by cases sp <;> rfl
@[simp] theorem State.setSpace_rxInfo (sp : Space) (m : Memory) : (s.setSpace sp m).rxInfo = s.rxInfo := by cases sp <;> rfl
@[simp] theorem State.setSpace_raddr (sp : Space) (m : Memory) : (s.setSpace sp m).raddr = s.raddr := by cases sp <;> rfl
@[simp] theorem State.setSpace_raddrValid (sp : Space) (m : Memory) : (s.setSpace sp m).raddrValid = s.raddrValid := by cases sp <;> rfl
@[simp] theorem State.setSpace_env (sp : Space) (m : Memory) : (s.setSpace sp m).env = s.env := by cases sp <;> rfl
@[simp] theorem State.setSpace_inputs (sp : Space) (m : Memory) : (s.setSpace sp m).inputs = s.inputs := by cases sp <;> rfl
@[simp] theorem State.setSpace_responses (sp : Space) (m : Memory) : (s.setSpace sp m).responses = s.responses := by cases sp <;> rfl
@[simp] theorem State.setSpace_offered (sp : Space) (m : Memory) : (s.setSpace sp m).offered = s.offered := by cases sp <;> rfl
@[simp] theorem State.setSpace_draws (sp : Space) (m : Memory) : (s.setSpace sp m).draws = s.draws := by cases sp <;> rfl

/-! ### Banks -/

@[simp] theorem State.bank_setBank (k j : Bank) (h : Header) : (s.setBank k h).bank j = if j = k then h else s.bank j := by
  cases k <;> cases j <;> rfl
@[simp] theorem State.setBank_bank (k : Bank) : s.setBank k (s.bank k) = s := by cases k <;> rfl
@[simp] theorem State.bank_forgetBank (k j : Bank) :
    (s.forgetBank k).bank j = if j = k then freeHeader s.draws else s.bank j := by
  cases k <;> cases j <;> rfl
@[simp] theorem State.bank_respond (st : Status) (v : Word) (j : Bank) : (s.respond st v).bank j = s.bank j := by
  cases j <;> simp [State.bank]
@[simp] theorem State.bank_offer (bs : List Byte) (d : Word) (j : Bank) : (s.offer bs d).bank j = s.bank j := by
  cases j <;> simp [State.bank]
@[simp] theorem State.bank_compose (bs : List Byte) (j : Bank) : (s.compose bs).bank j = s.bank j := by
  cases j <;> simp [State.bank]
@[simp] theorem State.bank_rxComplete (st : Status) (v : Word) (j : Bank) : (s.rxComplete st v).bank j = s.bank j := by
  cases j <;> simp [State.bank]
@[simp] theorem State.bank_forgetSender (j : Bank) : (s.forgetSender).bank j = s.bank j := by
  cases j <;> simp [State.bank]
@[simp] theorem State.bank_forgetRxbuf (j : Bank) : (s.forgetRxbuf).bank j = s.bank j := by
  cases j <;> simp [State.bank]
@[simp] theorem State.bank_rxFail (st : Status) (j : Bank) : (s.rxFail st).bank j = s.bank j := by
  cases j <;> simp [State.bank]
@[simp] theorem State.bank_setSpace (sp : Space) (m : Memory) (j : Bank) : (s.setSpace sp m).bank j = s.bank j := by
  cases j <;> simp [State.bank]

/-! ### Spaces -/

@[simp] theorem State.space_setSpace (sp p : Space) (m : Memory) :
    (s.setSpace sp m).space p = if p = sp then m else s.space p := by
  cases sp <;> cases p <;> rfl
@[simp] theorem State.space_respond (st : Status) (v : Word) (p : Space) : (s.respond st v).space p = s.space p := by
  cases p <;> simp [State.space]
@[simp] theorem State.space_offer (bs : List Byte) (d : Word) (p : Space) : (s.offer bs d).space p = s.space p := by
  cases p <;> simp [State.space]
@[simp] theorem State.space_setBank (k : Bank) (h : Header) (p : Space) : (s.setBank k h).space p = s.space p := by
  cases p <;> simp [State.space]
@[simp] theorem State.space_forgetBank (k : Bank) (p : Space) : (s.forgetBank k).space p = s.space p := by
  cases p <;> simp [State.space]
@[simp] theorem State.space_rxComplete (st : Status) (v : Word) (p : Space) : (s.rxComplete st v).space p = s.space p := by
  cases p <;> simp [State.space]
@[simp] theorem State.space_forgetSender (p : Space) : (s.forgetSender).space p = s.space p := by
  cases p <;> simp [State.space]

end Sys2Proof.Machine
end

