-- ==== Sys2Proof/Laws/Effects.lean ====
section
/-! SUPPORT. What each shared operation can do, said once, and from that the whole range of effects of a command: a statement
about every command is a case analysis on CommandEffect, and no proof needs to unfold a meaning again. -/

namespace Sys2Proof.Machine

/-! ### The shared operations -/

/-- Fewer than 28 bytes (R183). -/
theorem unmarshalPacket_short (s : State) (h : s.rxlen.toNat < 28) :
    unmarshalPacket s = ((.protoShort, s.rxlen.setWidth 32), { s with rpktValid := false }) := by
  simp [unmarshalPacket, h, State.rxlenInfo]

/-- More than 1464 bytes (R183). -/
theorem unmarshalPacket_oversize (s : State) (h : 1464 < s.rxlen.toNat) :
    unmarshalPacket s = ((.protoOversize, s.rxlen.setWidth 32), { s with rpktValid := false }) := by
  have h' : ¬ s.rxlen.toNat < 28 := by omega
  simp [unmarshalPacket, h, h', State.rxlenInfo]

/-- A wrong magic (R183). -/
theorem unmarshalPacket_badMagic (s : State) (h : 28 ≤ s.rxlen.toNat) (h' : s.rxlen.toNat ≤ 1464)
    (hm : s.stagedHeader.magic ≠ s.cfg.magic) :
    unmarshalPacket s = ((.protoBadMagic, s.stagedHeader.magic), { s with rpktValid := false }) := by
  have h1 : ¬ s.rxlen.toNat < 28 := by omega
  have h2 : ¬ 1464 < s.rxlen.toNat := by omega
  simp [unmarshalPacket, h1, h2, hm]

/-- A packet (R183). -/
theorem unmarshalPacket_ok (s : State) (h : 28 ≤ s.rxlen.toNat) (h' : s.rxlen.toNat ≤ 1464)
    (hm : s.stagedHeader.magic = s.cfg.magic) :
    unmarshalPacket s =
      ((.ok, BitVec.ofNat 32 (s.rxlen.toNat - 28)),
        { s with
          h2 := s.stagedHeader
          rpktLen := BitVec.ofNat 11 (s.rxlen.toNat - 28)
          rpmem := Memory.write s.rpmem 0 (Memory.readBytes s.rxbuf 28 (s.rxlen.toNat - 28))
          rpktValid := true }) := by
  have h1 : ¬ s.rxlen.toNat < 28 := by omega
  have h2 : ¬ 1464 < s.rxlen.toNat := by omega
  simp [unmarshalPacket, h1, h2, hm]

/-- What decoding the receive buffer can do (R183): a rejection clears `RPKT.VALID` only; a success writes the receive packet. -/
theorem unmarshalPacket_effect (s : State) :
    (∃ st v, unmarshalPacket s = ((st, v), { s with rpktValid := false }) ∧
      (st = .protoShort ∨ st = .protoOversize ∨ st = .protoBadMagic)) ∨
    ∃ v h len bs, unmarshalPacket s =
        ((.ok, v), { s with h2 := h, rpktLen := len, rpmem := Memory.write s.rpmem 0 bs, rpktValid := true }) ∧
      len.toNat ≤ 1436 ∧ bs.length ≤ 1436 := by
  by_cases h1 : s.rxlen.toNat < 28
  · exact .inl ⟨_, _, unmarshalPacket_short s h1, .inl rfl⟩
  by_cases h2 : 1464 < s.rxlen.toNat
  · exact .inl ⟨_, _, unmarshalPacket_oversize s h2, .inr (.inl rfl)⟩
  by_cases hm : s.stagedHeader.magic = s.cfg.magic
  · refine .inr ⟨_, _, _, _, unmarshalPacket_ok s (by omega) (by omega) hm, ?_, ?_⟩
    · rw [BitVec.toNat_ofNat]; omega
    · rw [Memory.length_readBytes]; omega
  · exact .inl ⟨_, _, unmarshalPacket_badMagic s (by omega) (by omega) hm, .inr (.inr rfl)⟩

/-- What writing the composed datagram can answer (R191, R192): it is always composed and offered. -/
theorem sendTo_effect (dest : Word) (s : State) :
    ∃ st v, sendTo dest s = ((s.compose s.flatPacket).offer s.flatPacket dest).respond st v ∧
      ((s.env.wrErr = true ∧ st = .trWrite ∧ v = 0) ∨
       (s.env.wrErr = false ∧ s.env.wrN < 28 + s.tpktLen.toNat ∧ st = .trShortWrite ∧ v = BitVec.ofNat 32 s.env.wrN) ∨
       (s.env.wrErr = false ∧ 28 + s.tpktLen.toNat ≤ s.env.wrN ∧ st = .ok ∧ v = BitVec.ofNat 32 (28 + s.tpktLen.toNat))) := by
  by_cases h1 : s.env.wrErr = true
  · exact ⟨.trWrite, 0, by simp [sendTo, h1], .inl ⟨h1, rfl, rfl⟩⟩
  · have h1' : s.env.wrErr = false := by simpa using h1
    by_cases h2 : s.env.wrN < 28 + s.tpktLen.toNat
    · exact ⟨.trShortWrite, _, by simp [sendTo, h1', h2], .inr (.inl ⟨h1', h2, rfl, rfl⟩)⟩
    · exact ⟨.ok, _, by simp [sendTo, h1', h2], .inr (.inr ⟨h1', by omega, rfl, rfl⟩)⟩

/-- What failing a receive does (R194): `RXBUF` is written with some 1465 bytes. -/
theorem rxFail_effect (s : State) (st : Status) :
    ∃ bs d, bs.length = 1465 ∧
      s.rxFail st = { s with
        rxbuf := Memory.write s.rxbuf 0 bs, draws := d, rxlen := 0, rpktValid := false, raddrValid := false
        rxStatus := st.code, rxInfo := 0, epRxPending := false, epRxDone := true } :=
  ⟨_, _, by simp, rfl⟩

/-- What a delivery does whatever it delivers (R196): the bytes kept go to `RXBUF`, then the receive completes with a status; the
receive packet is written only by a decode that succeeds. -/
theorem netDeliver_effect (bytes : List Byte) (src : Word) (s : State) :
    ∃ bs len st v ra rv d, bs.length ≤ 1465 ∧ len.toNat ≤ 1465 ∧ st ≠ .intSize ∧
      ((∃ pv, netDeliver bytes src s = { s with
          rxbuf := Memory.write s.rxbuf 0 bs, rxlen := len, raddr := ra, raddrValid := rv, draws := d, rpktValid := pv
          rxStatus := Status.code st, rxInfo := v, epRxPending := false, epRxDone := true }) ∨
       ∃ h pl p, pl.toNat ≤ 1436 ∧ p.length ≤ 1436 ∧ netDeliver bytes src s = { s with
          rxbuf := Memory.write s.rxbuf 0 bs, rxlen := len, raddr := ra, raddrValid := rv, draws := d, rpktValid := true
          h2 := h, rpktLen := pl, rpmem := Memory.write s.rpmem 0 p
          rxStatus := Status.code st, rxInfo := v, epRxPending := false, epRxDone := true }) := by
  have hb : (bytes.take Config.rxbufSize).length ≤ 1465 := by simp
  have hl : (BitVec.ofNat 11 (min bytes.length Config.rxbufSize)).toNat ≤ 1465 := by
    rw [BitVec.toNat_ofNat, Config.rxbufSize]
    omega
  by_cases h0 : min bytes.length Config.rxbufSize = 0
  · refine ⟨_, _, .trEmpty, 0, Config.freeWord s.draws, Config.freeBit s.draws, s.draws + 1, hb, hl, by decide,
      .inl ⟨false, ?_⟩⟩
    simp only [netDeliver, if_pos h0]
    rfl
  by_cases h1 : min bytes.length Config.rxbufSize > Config.maxPacket
  · refine ⟨_, _, .trOversize, BitVec.ofNat 32 (min bytes.length Config.rxbufSize), Config.freeWord s.draws,
      Config.freeBit s.draws, s.draws + 1, hb, hl, by decide, .inl ⟨false, ?_⟩⟩
    simp only [netDeliver, if_neg h0, if_pos h1]
    rfl
  obtain ⟨st, v, e, hst⟩ | ⟨v, h, pl, p, e, hpl, hp⟩ := unmarshalPacket_effect
    { s with
      rxbuf := Memory.write s.rxbuf 0 (bytes.take Config.rxbufSize)
      rxlen := BitVec.ofNat 11 (min bytes.length Config.rxbufSize) }
  · refine ⟨_, _, st, v, src, true, s.draws, hb, hl, by rcases hst with rfl | rfl | rfl <;> decide, .inl ⟨false, ?_⟩⟩
    simp only [netDeliver, if_neg h0, if_neg h1, e]
    rfl
  · refine ⟨_, _, .ok, v, src, true, s.draws, hb, hl, by decide, .inr ⟨h, pl, p, hpl, hp, ?_⟩⟩
    simp only [netDeliver, if_neg h0, if_neg h1, e]
    rfl

/-- What a register write that is not refused does (R40, R211). -/
theorem writeReg_effect (s t : State) (c : CReg) (v : Word) (h : s.writeReg c v = some t) :
    (v.toNat ≤ 64 ∧ t = { s with nlen := v.setWidth 7 }) ∨
    (v.toNat ≤ 1 ∧ t = { s with tpktValid := v == 1 }) ∨
    (v.toNat ≤ 2048 ∧ t = { s with tpktLen := v.setWidth 12 }) ∨
    (v.toNat ≤ 1465 ∧ s.epRxPending = false ∧ t = { s with rxlen := v.setWidth 11 }) := by
  cases c <;> simp only [State.writeReg, reduceCtorEq] at h
  · split_ifs at h with hv
    exact .inl ⟨by omega, (Option.some.inj h).symm⟩
  · split_ifs at h with hv
    exact .inr (.inl ⟨by omega, (Option.some.inj h).symm⟩)
  · split_ifs at h with hv
    exact .inr (.inr (.inl ⟨by omega, (Option.some.inj h).symm⟩))
  · split_ifs at h with hv
    rw [not_or] at hv
    exact .inr (.inr (.inr ⟨by omega, by simpa using hv.2, (Option.some.inj h).symm⟩))

/-- The spaces the host may write are numbered 0, 2 and 5 (R62). -/
theorem hostMayWrite_effect (s : State) (n : Byte) (p : Space) (hp : spaceOf n = some p) (h : s.hostMayWrite p = true) :
    (p = .nbuf ∧ n.toNat = 0) ∨ (p = .tpmem ∧ n.toNat = 2) ∨ (p = .rxbuf ∧ n.toNat = 5 ∧ s.epRxPending = false) := by
  have key : ∀ n : Byte, (spaceOf n = some .nbuf → n.toNat = 0) ∧ (spaceOf n = some .tpmem → n.toNat = 2) ∧
      (spaceOf n = some .rxbuf → n.toNat = 5) := by decide
  obtain ⟨k0, k2, k5⟩ := key n
  cases p with
  | nbuf => exact .inl ⟨rfl, k0 hp⟩
  | tpmem => exact .inr (.inl ⟨rfl, k2 hp⟩)
  | rxbuf => exact .inr (.inr ⟨rfl, k5 hp, by simpa [State.hostMayWrite] using h⟩)
  | _ => cases h

/-! ### The effects of the commands -/

/-- The whole range of what a command does, from the state before to the state after. -/
inductive CommandEffect : Instr → State → State → Prop
  /-- A response and nothing else: a read, a failure or a refusal. -/
  | answer (i : Instr) (s : State) (st : Status) (v : Word) (h : st ≠ .intSize) : CommandEffect i s (s.respond st v)
  /-- A header bank of its own is written, the frame counter only where the spec says so (R28, R29). -/
  | writeBank (i : Instr) (s : State) (k : Bank) (h : Header) (hw : writesBank k i = true)
      (hc : writesCounter i = false → h.frameCounter = (s.bank k).frameCounter) :
      CommandEffect i s ((s.setBank k h).respond .ok 0)
  /-- A bank is left unspecified (R160, U1). -/
  | forget (k : Bank) (s : State) (v : Word) : CommandEffect (.hunmarshal k) s ((s.forgetBank k).respond .protoBadMagic v)
  /-- A name result (R152). -/
  | name (k : Bank) (s : State) (bs : List Byte) (n : Nat) (v : Word) (hl : bs.length = 16) (hn : n ≤ 16)
      (hz : ∀ i, n ≤ i → bs.getD i 0 = 0) :
      CommandEffect (.getname k) s ({ s with nres := Memory.write s.nres 0 bs, nresLen := BitVec.ofNat 5 n }.respond .ok v)
  /-- A header image in `TXBUF` (R158). -/
  | header (k : Bank) (s : State) : CommandEffect (.hmarshal k) s ((s.compose (encHeader (s.bank k))).respond .ok 28)
  /-- A transmit packet (R180). -/
  | newPacket (k : Bank) (n : Half) (s : State) (h : n.toNat ≤ 1436) :
      CommandEffect (.pnew k n) s ({ s with h1 := s.bank k, tpktLen := n.setWidth 12, tpktValid := true }.respond .ok 0)
  /-- A datagram in `TXBUF` (R181). -/
  | packet (s : State) (v : Word) (h : s.tpktLen.toNat ≤ 1436) :
      CommandEffect .pmarshal s ((s.compose s.flatPacket).respond .ok v)
  /-- The receive buffer decoded (R183). -/
  | split (s : State) :
      CommandEffect .punmarshal s ((unmarshalPacket s).2.respond (unmarshalPacket s).1.1 (unmarshalPacket s).1.2)
  /-- The endpoint opened (R190). -/
  | opened (r : Option Word) (s : State) (h : s.epOpen = false) :
      CommandEffect (.epopen r) s ({ s with epOpen := true, epHasRemote := r.isSome, epRemote := r.getD 0 }.respond .ok 0)
  /-- A datagram composed and offered (R191). -/
  | sent (a : Option Word) (s : State) (dest : Word) (h : s.tpktLen.toNat ≤ 1436) : CommandEffect (.send a) s (sendTo dest s)
  /-- A receive made pending (R193). -/
  | wait (s : State) (h : s.epOpen = true) (h' : s.epRxPending = false) :
      CommandEffect .recv s ({ s with epRxPending := true, epRxDone := false }.respond .ok 0)
  /-- The endpoint closed with no receive pending (R195). -/
  | closed (s : State) (h : s.epOpen = true) (h' : s.epRxPending = false) :
      CommandEffect .close s ({ s with epOpen := false, epHasRemote := false, epRemote := 0 }.respond .ok 0)
  /-- The endpoint closed under a pending receive (R195). -/
  | closedPending (s : State) (h : s.epOpen = true) (h' : s.epRxPending = true) :
      CommandEffect .close s
        (({ s with epOpen := false, epHasRemote := false, epRemote := 0 }.rxFail .trClosedDuringRead).respond .ok 0)
  /-- A control register written (R211). -/
  | register (r : Byte) (v : Word) (s t : State) (c : CReg) (h : s.writeReg c v = some t) :
      CommandEffect (.cwr r v) s (t.respond .ok 0)
  /-- A byte stored (R213). -/
  | store (n : Byte) (i : Half) (v : Byte) (s : State) (p : Space) (hp : spaceOf n = some p) (hw : s.hostMayWrite p = true)
      (hi : i.toNat < p.capacity) :
      CommandEffect (.stb n i v) s ((s.setSpace p (Memory.write (s.space p) i.toNat [v])).respond .ok 0)

/-- Every command completes with one of its effects. -/
theorem exec_effect (i : Instr) (s : State) : ∃ t, exec i s = .next t ∧ CommandEffect i s t := by
  cases i with
  | hnew k sp => exact ⟨_, rfl, .writeBank _ _ k _ (by simp [writesBank]) (by simp [writesCounter])⟩
  | setname k => exact ⟨_, rfl, .writeBank _ _ k _ (by simp [writesBank]) fun _ => rfl⟩
  | setafmt k idx dt rsv codec => exact ⟨_, rfl, .writeBank _ _ k _ (by simp [writesBank]) fun _ => rfl⟩
  | setspf k n =>
    simp only [exec, execSetspf]
    split_ifs
    · exact ⟨_, rfl, .writeBank _ _ k _ (by simp [writesBank]) fun _ => rfl⟩
    · exact ⟨_, rfl, .answer _ _ _ _ (by decide)⟩
  | setch k n =>
    simp only [exec, execSetch]
    split_ifs
    · exact ⟨_, rfl, .writeBank _ _ k _ (by simp [writesBank]) fun _ => rfl⟩
    · exact ⟨_, rfl, .answer _ _ _ _ (by decide)⟩
  | hwr k f v =>
    simp only [exec, execHwr]
    split_ifs
    · refine ⟨_, rfl, .writeBank _ _ k _ (by simp [writesBank]) fun h => ?_⟩
      cases f <;> first | rfl | simp [writesCounter] at h
    · exact ⟨_, rfl, .answer _ _ _ _ (by decide)⟩
  | hunmarshal k =>
    simp only [exec, execHunmarshal]
    split_ifs
    · exact ⟨_, rfl, .answer _ _ _ _ (by decide)⟩
    · exact ⟨_, rfl, .forget _ _ _⟩
    · exact ⟨_, rfl, .writeBank _ _ k _ (by simp [writesBank]) (by simp [writesCounter])⟩
  | getname k =>
    refine ⟨_, rfl, .name k s _ _ _ (by simp) (length_nameGet_le _) fun i hi => ?_⟩
    by_cases h : i < 16
    · rw [nameGet] at hi
      rw [getD_nameSet _ _ h, nameGet, getD_takeWhile_name, if_neg (by omega)]
    · exact List.getD_eq_default _ _ (by simp; omega)
  | hmarshal k => exact ⟨_, rfl, .header _ _⟩
  | pnew k n =>
    simp only [exec, execPnew]
    split_ifs with h
    · exact ⟨_, rfl, .answer _ _ _ _ (by decide)⟩
    · exact ⟨_, rfl, .newPacket _ _ _ (not_lt.mp h)⟩
  | pmarshal =>
    simp only [exec, execPmarshal]
    split_ifs with h1 h2
    · exact ⟨_, rfl, .answer _ _ _ _ (by decide)⟩
    · exact ⟨_, rfl, .answer _ _ _ _ (by decide)⟩
    · exact ⟨_, rfl, .packet _ _ (not_lt.mp h2)⟩
  | punmarshal => exact ⟨_, rfl, .split _⟩
  | epopen r =>
    simp only [exec, execEpopen]
    split_ifs with h1 h2
    · exact ⟨_, rfl, .answer _ _ _ _ (by decide)⟩
    · exact ⟨_, rfl, .answer _ _ _ _ (by decide)⟩
    · exact ⟨_, rfl, .opened _ _ (by simpa using h1)⟩
  | send a =>
    simp only [exec, execSend]
    split_ifs with h1 h2 h3
    · exact ⟨_, rfl, .answer _ _ _ _ (by decide)⟩
    · exact ⟨_, rfl, .answer _ _ _ _ (by decide)⟩
    · exact ⟨_, rfl, .answer _ _ _ _ (by decide)⟩
    · cases s.destination a with
      | none => exact ⟨_, rfl, .answer _ _ _ _ (by decide)⟩
      | some dest => exact ⟨_, rfl, .sent _ _ _ (not_lt.mp h3)⟩
  | recv =>
    simp only [exec, execRecv]
    split_ifs with h1 h2
    · exact ⟨_, rfl, .answer _ _ _ _ (by decide)⟩
    · exact ⟨_, rfl, .answer _ _ _ _ (by decide)⟩
    · exact ⟨_, rfl, .wait _ (by simpa using h1) (by simpa using h2)⟩
  | close =>
    simp only [exec, execClose]
    by_cases h1 : s.epOpen = false
    · rw [if_pos h1]
      exact ⟨_, rfl, .answer _ _ _ _ (by decide)⟩
    · rw [if_neg h1]
      by_cases h2 : s.epRxPending = true
      · rw [if_pos h2]
        exact ⟨_, rfl, .closedPending _ (by simpa using h1) h2⟩
      · rw [if_neg h2]
        exact ⟨_, rfl, .closed _ (by simpa using h1) (by simpa using h2)⟩
  | crd r =>
    simp only [exec, execCrd]
    split <;> exact ⟨_, rfl, .answer _ _ _ _ (by decide)⟩
  | cwr r v =>
    simp only [exec, execCwr]
    split
    · rename_i t h
      obtain ⟨c, -, hc⟩ := Option.bind_eq_some_iff.mp h
      exact ⟨_, rfl, .register _ _ _ _ c hc⟩
    · exact ⟨_, rfl, .answer _ _ _ _ (by decide)⟩
  | ldb n i =>
    simp only [exec, execLdb]
    split
    · split_ifs <;> exact ⟨_, rfl, .answer _ _ _ _ (by decide)⟩
    · exact ⟨_, rfl, .answer _ _ _ _ (by decide)⟩
  | stb n i v =>
    simp only [exec, execStb]
    split
    · split_ifs with h
      · exact ⟨_, rfl, .store _ _ _ _ _ ‹_› h.1 h.2⟩
      · exact ⟨_, rfl, .answer _ _ _ _ (by decide)⟩
    · exact ⟨_, rfl, .answer _ _ _ _ (by decide)⟩
  | getsp | isaudio | isserial | istext | isservice | getsr | getrate | getdt | dtsize | getcodec | getspf | getch | hrd =>
    exact ⟨_, rfl, .answer _ _ _ _ (by decide)⟩

/-- The effect behind a next state. -/
theorem CommandEffect.of_exec {i : Instr} {s t : State} (h : exec i s = .next t) : CommandEffect i s t := by
  obtain ⟨u, hu, he⟩ := exec_effect i s
  rw [hu] at h
  cases h
  exact he

/-! ### The step -/

/-- Every way a step goes on: nothing to take, a command, a word that does not decode, or one of the two network events (R44,
R72, R106). -/
theorem step_cases (s t : State) (h : step s = .next t) :
    (s.inputs = [] ∧ t = s) ∨
    (∃ w env rest i, s.inputs = .command w env :: rest ∧ decode w = .ok i ∧
      exec i { s with inputs := rest, env := env } = .next t) ∨
    (∃ w env rest e, s.inputs = .command w env :: rest ∧ decode w = .error e ∧
      t = { s with inputs := rest, env := env }.respond .valIllegal 0) ∨
    (∃ bytes src rest, s.inputs = .deliver bytes src :: rest ∧ s.epRxPending = true ∧
      t = netDeliver bytes src { s with inputs := rest }) ∨
    ∃ closed rest, s.inputs = .readError closed :: rest ∧ s.epRxPending = true ∧
      t = netReadError closed { s with inputs := rest } := by
  unfold step at h
  cases hi : s.inputs with
  | nil =>
    rw [hi] at h
    cases h
    exact .inl ⟨rfl, rfl⟩
  | cons a rest =>
    rw [hi] at h
    cases a with
    | command w env =>
      simp only [takeInput, runWord] at h
      cases hd : decode w with
      | ok i =>
        rw [hd] at h
        exact .inr (.inl ⟨w, env, rest, i, rfl, hd, h⟩)
      | error e =>
        rw [hd] at h
        cases h
        exact .inr (.inr (.inl ⟨w, env, rest, e, rfl, hd, rfl⟩))
    | deliver bytes src =>
      simp only [takeInput] at h
      split_ifs at h with hp
      cases h
      exact .inr (.inr (.inr (.inl ⟨bytes, src, rest, rfl, hp, rfl⟩)))
    | readError closed =>
      simp only [takeInput] at h
      split_ifs at h with hp
      cases h
      exact .inr (.inr (.inr (.inr ⟨closed, rest, rfl, hp, rfl⟩)))

end Sys2Proof.Machine
end

