-- ==== Sys2Proof/Laws/Encoding.lean ====
section
/-! SUPPORT. The encoder's slots as the numbers R105 to R110 write, and what it takes for a command to be encoded as four of
them. -/

namespace Sys2Proof.Machine

theorem bankSlot_toNat (k : Bank) : (bankSlot k).toNat = bankNumber k := by cases k <;> rfl

theorem selSlot_toNat (f : Field) : (0#8 ++ f.selector : Half).toNat = selectorNumber f := by
  cases f with
  | name i => revert i; decide
  | _ => rfl

/-- The value of `HWR` suits its field exactly when the field has 32 bits or the value is below 256 (R110). -/
theorem Field.fits_iff (f : Field) (v : Word) :
    f.fits v = true ↔ f = .magic ∨ f = .frameCounter ∨ v.toNat < 256 := by
  have := v.isLt
  rw [Field.fits, decide_eq_true_eq]
  cases f <;> simp only [Field.bits, reduceCtorEq, false_or, true_or, or_true, iff_true] <;> omega

/-- The encoder's word as a number of its slots (R105). -/
theorem encode_eq_commandWord (i : Instr) :
    encode i = commandWord i.opcode.code.toNat i.operandSlots.1.toNat i.operandSlots.2.1.toNat i.operandSlots.2.2.toNat := by
  apply BitVec.eq_of_toNat_eq
  rw [encode, Slots.toNat_toWord, commandWord, BitVec.toNat_ofNat]
  have := i.opcode.code.isLt
  have := i.operandSlots.1.isLt
  have := i.operandSlots.2.1.isLt
  have := i.operandSlots.2.2.isLt
  simp only
  omega

/-- A command whose round trips hold is encoded as its slots' numbers. -/
theorem EncodedAs.of_roundTrip (i : Instr) (op a b d : Nat) (hdec : decode (encode i) = .ok i)
    (henc : ∀ w, decode w = .ok i → encode i = w) (hop : i.opcode.code.toNat = op) (ha : i.operandSlots.1.toNat = a)
    (hb : i.operandSlots.2.1.toNat = b) (hd : i.operandSlots.2.2.toNat = d) : EncodedAs i op a b d := by
  have e : encode i = commandWord op a b d := by
    subst hop ha hb hd
    exact encode_eq_commandWord i
  intro w
  constructor
  · intro h
    rw [← e, henc w h]
  · rintro rfl
    rw [← e, hdec]

end Sys2Proof.Machine
end

