-- ==== Sys2Proof/Laws/PerInstr.lean ====
section
/-! SUPPORT. Statements for all instructions, one lemma a constructor. Family SelectsRow: the encoded word selects its own
opcode-table row, `w & mask = match` (R110). -/

namespace Sys2Proof.Laws

/-- The slots of a word, masked one by one. -/
theorem and_toWord (f g : Slots) :
    f.toWord &&& g.toWord = Slots.toWord { op := f.op &&& g.op, a := f.a &&& g.a, b := f.b &&& g.b, d := f.d &&& g.d } := by
  rw [← Slots.toWord_ofWord (f.toWord &&& g.toWord)]
  congr 1
  have hf := Slots.ofWord_toWord f
  have hg := Slots.ofWord_toWord g
  have e : ∀ (x y : Cmd) (start len : Nat),
      (x &&& y).extractLsb' start len = x.extractLsb' start len &&& y.extractLsb' start len := fun x y start len => by
    apply BitVec.eq_of_getElem_eq
    intro i hi
    simp
  simp only [Slots.ofWord, e] at *
  cases f
  cases g
  simp_all only [Slots.mk.injEq]

theorem code_and (o : Opcode) : o.code &&& 0xFF = o.code := by cases o <;> decide

theorem toWord_code (o : Opcode) : Slots.toWord { op := o.code, a := 0, b := 0, d := 0 } = o.matchWord := by
  cases o <;> decide

/-- A word selects a row when its slots do: the opcode is kept, and every masked operand bit is zero. -/
theorem selects (i : Instr) (o : Opcode) (ho : i.opcode = o) (a : Byte) (b : Half) (d : Word)
    (hm : o.mask = Slots.toWord { op := 0xFF, a := a, b := b, d := d })
    (ha : i.operandSlots.1 &&& a = 0) (hb : i.operandSlots.2.1 &&& b = 0) (hd : i.operandSlots.2.2 &&& d = 0) :
    encode i &&& i.opcode.mask = i.opcode.matchWord := by
  subst ho
  rw [encode, hm, and_toWord, ← toWord_code]
  simp only [ha, hb, hd, code_and]

theorem bankSlot_and (k : Bank) : bankSlot k &&& 0xFC = 0 := by cases k <;> decide

theorem addressValid_and (r : Option Word) : addressValid r &&& 0xFE = 0 := by
  cases r <;> simp only [addressValid] <;> decide

theorem spSlot_and (sp : BitVec 3) : (0#8 ++ sp ++ 0#5 : Half) &&& 0xFF1F = 0 := by revert sp; decide

theorem rateSlotA_and (sp : BitVec 3) : (sp ++ 0#5 : Byte) &&& 0x1F = 0 := by revert sp; decide

theorem rateSlotB_and (idx : BitVec 5) : (0#11 ++ idx : Half) &&& 0xFFE0 = 0 := by revert idx; decide

theorem sizeSlot_and (dt : BitVec 3) : (0#5 ++ dt : Byte) &&& 0xF8 = 0 := by revert dt; decide

theorem selectorSlot_and (f : Byte) : (0#8 ++ f : Half) &&& 0xFF00 = 0 := by revert f; decide

theorem byteSlot_and (v : Byte) : (0#24 ++ v : Word) &&& 0xFFFFFF00 = 0 := by revert v; decide

theorem afmtSlot_and (idx : BitVec 5) (dt : BitVec 3) (rsv : BitVec 1) (codec : BitVec 4) :
    (codec ++ rsv ++ dt ++ 0#3 ++ idx : Half) &&& 0x00E0 = 0 := by
  have key : (codec ++ rsv ++ dt ++ 0#3 ++ idx) &&& 0x00E0#(4 + 1 + 3 + 3 + 5) = 0 := by
    apply BitVec.eq_of_getElem_eq
    intro i hi
    rw [BitVec.getElem_and]
    simp only [BitVec.getElem_append]
    interval_cases i <;> simp
  exact key

/-- The word of an instruction selects the instruction's row. -/
def SelectsRow.Statement (i : Instr) : Prop := encode i &&& i.opcode.mask = i.opcode.matchWord

theorem SelectsRow.getsp (x : Byte) : SelectsRow.Statement (.getsp x) :=
  selects _ .getsp rfl 0x00 0xFFFF 0xFFFFFFFF (by decide) BitVec.and_zero BitVec.zero_and BitVec.zero_and

theorem SelectsRow.isaudio (x : Byte) : SelectsRow.Statement (.isaudio x) :=
  selects _ .isaudio rfl 0x00 0xFFFF 0xFFFFFFFF (by decide) BitVec.and_zero BitVec.zero_and BitVec.zero_and

theorem SelectsRow.isserial (x : Byte) : SelectsRow.Statement (.isserial x) :=
  selects _ .isserial rfl 0x00 0xFFFF 0xFFFFFFFF (by decide) BitVec.and_zero BitVec.zero_and BitVec.zero_and

theorem SelectsRow.istext (x : Byte) : SelectsRow.Statement (.istext x) :=
  selects _ .istext rfl 0x00 0xFFFF 0xFFFFFFFF (by decide) BitVec.and_zero BitVec.zero_and BitVec.zero_and

theorem SelectsRow.isservice (x : Byte) : SelectsRow.Statement (.isservice x) :=
  selects _ .isservice rfl 0x00 0xFFFF 0xFFFFFFFF (by decide) BitVec.and_zero BitVec.zero_and BitVec.zero_and

theorem SelectsRow.getsr (x : Byte) : SelectsRow.Statement (.getsr x) :=
  selects _ .getsr rfl 0x00 0xFFFF 0xFFFFFFFF (by decide) BitVec.and_zero BitVec.zero_and BitVec.zero_and

theorem SelectsRow.getrate (sp : BitVec 3) (idx : BitVec 5) : SelectsRow.Statement (.getrate sp idx) :=
  selects _ .getrate rfl 0x1F 0xFFE0 0xFFFFFFFF (by decide) (rateSlotA_and sp) (rateSlotB_and idx) BitVec.zero_and

theorem SelectsRow.getdt (x : Byte) : SelectsRow.Statement (.getdt x) :=
  selects _ .getdt rfl 0x00 0xFFFF 0xFFFFFFFF (by decide) BitVec.and_zero BitVec.zero_and BitVec.zero_and

theorem SelectsRow.dtsize (dt : BitVec 3) : SelectsRow.Statement (.dtsize dt) :=
  selects _ .dtsize rfl 0xF8 0xFFFF 0xFFFFFFFF (by decide) (sizeSlot_and dt) BitVec.zero_and BitVec.zero_and

theorem SelectsRow.getcodec (x : Byte) (sp : BitVec 3) : SelectsRow.Statement (.getcodec x sp) :=
  selects _ .getcodec rfl 0x00 0xFF1F 0xFFFFFFFF (by decide) BitVec.and_zero (spSlot_and sp) BitVec.zero_and

theorem SelectsRow.hnew (k : Bank) (sp : BitVec 3) : SelectsRow.Statement (.hnew k sp) :=
  selects _ .hnew rfl 0xFC 0xFF1F 0xFFFFFFFF (by decide) (bankSlot_and k) (spSlot_and sp) BitVec.zero_and

theorem SelectsRow.setname (k : Bank) : SelectsRow.Statement (.setname k) :=
  selects _ .setname rfl 0xFC 0xFFFF 0xFFFFFFFF (by decide) (bankSlot_and k) BitVec.zero_and BitVec.zero_and

theorem SelectsRow.getname (k : Bank) : SelectsRow.Statement (.getname k) :=
  selects _ .getname rfl 0xFC 0xFFFF 0xFFFFFFFF (by decide) (bankSlot_and k) BitVec.zero_and BitVec.zero_and

theorem SelectsRow.getspf (k : Bank) : SelectsRow.Statement (.getspf k) :=
  selects _ .getspf rfl 0xFC 0xFFFF 0xFFFFFFFF (by decide) (bankSlot_and k) BitVec.zero_and BitVec.zero_and

theorem SelectsRow.setspf (k : Bank) (n : Half) : SelectsRow.Statement (.setspf k n) :=
  selects _ .setspf rfl 0xFC 0x0000 0xFFFFFFFF (by decide) (bankSlot_and k) BitVec.and_zero BitVec.zero_and

theorem SelectsRow.getch (k : Bank) : SelectsRow.Statement (.getch k) :=
  selects _ .getch rfl 0xFC 0xFFFF 0xFFFFFFFF (by decide) (bankSlot_and k) BitVec.zero_and BitVec.zero_and

theorem SelectsRow.setch (k : Bank) (n : Half) : SelectsRow.Statement (.setch k n) :=
  selects _ .setch rfl 0xFC 0x0000 0xFFFFFFFF (by decide) (bankSlot_and k) BitVec.and_zero BitVec.zero_and

theorem SelectsRow.setafmt (k : Bank) (idx : BitVec 5) (dt : BitVec 3) (rsv : BitVec 1) (codec : BitVec 4) : SelectsRow.Statement (.setafmt k idx dt rsv codec) :=
  selects _ .setafmt rfl 0xFC 0x00E0 0xFFFFFFFF (by decide) (bankSlot_and k) (afmtSlot_and idx dt rsv codec) BitVec.zero_and

theorem SelectsRow.hmarshal (k : Bank) : SelectsRow.Statement (.hmarshal k) :=
  selects _ .hmarshal rfl 0xFC 0xFFFF 0xFFFFFFFF (by decide) (bankSlot_and k) BitVec.zero_and BitVec.zero_and

theorem SelectsRow.hunmarshal (k : Bank) : SelectsRow.Statement (.hunmarshal k) :=
  selects _ .hunmarshal rfl 0xFC 0xFFFF 0xFFFFFFFF (by decide) (bankSlot_and k) BitVec.zero_and BitVec.zero_and

theorem SelectsRow.hrd (k : Bank) (f : Field) : SelectsRow.Statement (.hrd k f) :=
  selects _ .hrd rfl 0xFC 0xFF00 0xFFFFFFFF (by decide) (bankSlot_and k) (selectorSlot_and f.selector) BitVec.zero_and

theorem SelectsRow.hwr (k : Bank) (f : Field) (v : Word) : SelectsRow.Statement (.hwr k f v) :=
  selects _ .hwr rfl 0xFC 0xFF00 0x00000000 (by decide) (bankSlot_and k) (selectorSlot_and f.selector) BitVec.and_zero

theorem SelectsRow.pnew (k : Bank) (n : Half) : SelectsRow.Statement (.pnew k n) :=
  selects _ .pnew rfl 0xFC 0x0000 0xFFFFFFFF (by decide) (bankSlot_and k) BitVec.and_zero BitVec.zero_and

theorem SelectsRow.pmarshal : SelectsRow.Statement .pmarshal :=
  selects _ .pmarshal rfl 0xFF 0xFFFF 0xFFFFFFFF (by decide) BitVec.zero_and BitVec.zero_and BitVec.zero_and

theorem SelectsRow.punmarshal : SelectsRow.Statement .punmarshal :=
  selects _ .punmarshal rfl 0xFF 0xFFFF 0xFFFFFFFF (by decide) BitVec.zero_and BitVec.zero_and BitVec.zero_and

theorem SelectsRow.epopen (remote : Option Word) : SelectsRow.Statement (.epopen remote) :=
  selects _ .epopen rfl 0xFE 0xFFFF 0x00000000 (by decide) (addressValid_and remote) BitVec.zero_and BitVec.and_zero

theorem SelectsRow.send (addr : Option Word) : SelectsRow.Statement (.send addr) :=
  selects _ .send rfl 0xFE 0xFFFF 0x00000000 (by decide) (addressValid_and addr) BitVec.zero_and BitVec.and_zero

theorem SelectsRow.recv : SelectsRow.Statement .recv :=
  selects _ .recv rfl 0xFF 0xFFFF 0xFFFFFFFF (by decide) BitVec.zero_and BitVec.zero_and BitVec.zero_and

theorem SelectsRow.close : SelectsRow.Statement .close :=
  selects _ .close rfl 0xFF 0xFFFF 0xFFFFFFFF (by decide) BitVec.zero_and BitVec.zero_and BitVec.zero_and

theorem SelectsRow.crd (r : Byte) : SelectsRow.Statement (.crd r) :=
  selects _ .crd rfl 0x00 0xFFFF 0xFFFFFFFF (by decide) BitVec.and_zero BitVec.zero_and BitVec.zero_and

theorem SelectsRow.cwr (r : Byte) (v : Word) : SelectsRow.Statement (.cwr r v) :=
  selects _ .cwr rfl 0x00 0xFFFF 0x00000000 (by decide) BitVec.and_zero BitVec.zero_and BitVec.and_zero

theorem SelectsRow.ldb (sp : Byte) (i : Half) : SelectsRow.Statement (.ldb sp i) :=
  selects _ .ldb rfl 0x00 0x0000 0xFFFFFFFF (by decide) BitVec.and_zero BitVec.and_zero BitVec.zero_and

theorem SelectsRow.stb (sp : Byte) (i : Half) (v : Byte) : SelectsRow.Statement (.stb sp i v) :=
  selects _ .stb rfl 0x00 0x0000 0xFFFFFF00 (by decide) BitVec.and_zero BitVec.and_zero (byteSlot_and v)

end Sys2Proof.Laws
end

