-- ==== Sys2Proof/Tests/Slice0.lean ====
section
/-! SUPPORT. The tests of the model. Expected results are from spec/95_test_vectors.md (V.., P.., T..) or worked out by hand from
the rule named; each test is one step. Then a witness for the hypotheses of every statement, clause by clause at the ends of its
range. -/

namespace Sys2Proof.Machine.Tests

/-! ### Small states -/

/-- The state a step answers, for tests whose step goes on. -/
def after : Result → State
  | .next t => t
  | .fault _ => State.reset
  | .refused _ => State.reset

/-- The state after a command word issued next. -/
def run (s : State) (w : Nat) : State := after (step (s.withFetchWord 64 w))

/-- The answer to a command word issued next. -/
def answer (s : State) (w : Nat) : Option Response := (run s w).responses.getLast?

/-- The state after a network event. -/
def event (s : State) (e : Input) : State := after (step { s with inputs := [e] })

/-- Sixteen bytes as a name field. -/
def name (bs : List Byte) : NameField := nameOfFn fun i => bs.getD i 0

/-- `"Stream1"`. -/
def stream1 : List Byte := [0x53, 0x74, 0x72, 0x65, 0x61, 0x6D, 0x31]

/-- The header of V41-9. -/
def header9 : Header :=
  { magic := 0x4E414256, formatSr := 0x03, formatNbs := 0x3F, formatNbc := 0x01, formatBit := 0x01
    streamName := name stream1, frameCounter := 0x00000102 }

/-- The 28 bytes of V41-9. -/
def image9 : List Byte :=
  [0x56, 0x42, 0x41, 0x4E, 0x03, 0x3F, 0x01, 0x01] ++ stream1 ++ [0, 0, 0, 0, 0, 0, 0, 0, 0] ++ [0x02, 0x01, 0x00, 0x00]

/-- The 28 bytes of V43-17: the first byte of the magic is wrong. -/
def badImage : List Byte := [0x00, 0x42, 0x41, 0x4E] ++ List.replicate 24 0

/-- Reset with a name operand. -/
def named : State := { State.reset with nbuf := Memory.place 0 stream1, nlen := 7 }

/-- Reset with the header of V41-9 in the working bank. -/
def working9 : State := { State.reset with h0 := header9 }

/-- Reset with a transmit packet: the header of V41-9 and a payload that begins `DE AD BE EE`. -/
def packet (n : Nat) : State :=
  { State.reset with
    h1 := header9, tpktValid := true, tpktLen := BitVec.ofNat 12 n, tpmem := Memory.place 0 [0xDE, 0xAD, 0xBE, 0xEE] }

/-- Reset with the bytes of V41-9 and `DE AD BE EE` in the receive buffer. -/
def received (n : Nat) : State :=
  { State.reset with rxbuf := Memory.place 0 (image9 ++ [0xDE, 0xAD, 0xBE, 0xEE]), rxlen := BitVec.ofNat 11 n }

/-- Reset with the bytes of V43-17 in the receive buffer. -/
def receivedBad (n : Nat) : State :=
  { State.reset with rxbuf := Memory.place 0 badImage, rxlen := BitVec.ofNat 11 n }

/-- The endpoint open without a remote. -/
def opened (s : State) : State := { s with epOpen := true }

/-- The endpoint open with a remote. -/
def dialed (s : State) (r : Word) : State := { s with epOpen := true, epHasRemote := true, epRemote := r }

/-- A receive pending. -/
def pending : State := { State.reset with epOpen := true, epRxPending := true }

/-- The environment's answers `env.wr_err` and `env.wr_n`. -/
def answering (s : State) (wrErr : Bool) (wrN : Nat) : State :=
  { s with env := { openOk := true, wrErr := wrErr, wrN := wrN } }

/-- The environment refuses to open. -/
def noOpen (s : State) : State := { s with env := { openOk := false, wrErr := false, wrN := 1464 } }

/-! ### Well-formedness -/

/-- R110: a value above 255 has no encoding for an 8-bit field; every value has one for a 32-bit field. -/
theorem test_wf_refuses :
    (Instr.hwr .working .formatSr 0x100).wf = false ∧ (Instr.hwr .receive (.name 15) 0xFFFFFFFF).wf = false ∧
    (Instr.hwr .working .formatSr 0xFF).wf = true ∧ (Instr.hwr .working .magic 0xFFFFFFFF).wf = true ∧
    (Instr.hwr .working .frameCounter 0xFFFFFFFF).wf = true := by decide

/-! ### Decoding -/

/-- Field model words (V40-10, V40-3, P1, V40-20, V40-33, 2.1). -/
theorem test_decode_fieldModel :
    decodeTableWord 64 0x000000000000E310 = some (.getsp 0xE3) ∧
    decodeTableWord 64 0x0000000000001F11 = some (.isaudio 0x1F) ∧
    decodeTableWord 64 0x0000000000003F12 = some (.isserial 0x3F) ∧
    decodeTableWord 64 0x0000000000005F13 = some (.istext 0x5F) ∧
    decodeTableWord 64 0x0000000000007F14 = some (.isservice 0x7F) ∧
    decodeTableWord 64 0x0000000000001F15 = some (.getsr 0x1F) ∧
    decodeTableWord 64 0x00000000001FE016 = some (.getrate 7 31) ∧
    decodeTableWord 64 0x000000000000F717 = some (.getdt 0xF7) ∧
    decodeTableWord 64 0x0000000000000518 = some (.dtsize 5) ∧
    decodeTableWord 64 0x0000000000401919 = some (.getcodec 0x19 2) := by decide

/-- Header codec words (V41, P4; `SETAFMT` from R110: `idx` 31, `dt` 5, `b[11]` 1, `codec` 0xA). -/
theorem test_decode_headerCodec :
    decodeTableWord 64 0x0000000000E00120 = some (.hnew .transmit 7) ∧
    decodeTableWord 64 0x0000000000000021 = some (.setname .working) ∧
    decodeTableWord 64 0x0000000000000222 = some (.getname .receive) ∧
    decodeTableWord 64 0x0000000000000223 = some (.getspf .receive) ∧
    decodeTableWord 64 0x00000000FFFF0024 = some (.setspf .working 65535) ∧
    decodeTableWord 64 0x0000000000000225 = some (.getch .receive) ∧
    decodeTableWord 64 0x0000000001010026 = some (.setch .working 257) ∧
    decodeTableWord 64 0x00000000AD1F0227 = some (.setafmt .receive 31 5 1 0xA) ∧
    decodeTableWord 64 0x0000000000000128 = some (.hmarshal .transmit) ∧
    decodeTableWord 64 0x0000000000000129 = some (.hunmarshal .transmit) ∧
    decodeTableWord 64 0x000000000005022A = some (.hrd .receive .frameCounter) ∧
    decodeTableWord 64 0x00000000001F002A = some (.hrd .working (.name 15)) ∧
    decodeTableWord 64 0x000000E30001002B = some (.hwr .working .formatSr 0xE3) ∧
    decodeTableWord 64 0xFFFFFFFF0005002B = some (.hwr .working .frameCounter 0xFFFFFFFF) := by decide

/-- Packet framing and packetizer words (V42, V43). -/
theorem test_decode_packets :
    decodeTableWord 64 0x0000000000040130 = some (.pnew .transmit 4) ∧
    decodeTableWord 64 0x0000000000000031 = some .pmarshal ∧
    decodeTableWord 64 0x0000000000000032 = some .punmarshal ∧
    decodeTableWord 64 0x0000000000000040 = some (.epopen none) ∧
    decodeTableWord 64 0x0000000500000140 = some (.epopen (some 5)) ∧
    decodeTableWord 64 0x0000000000000041 = some (.send none) ∧
    decodeTableWord 64 0x0A00000900000141 = some (.send (some 0x0A000009)) ∧
    decodeTableWord 64 0x0000000000000042 = some .recv ∧
    decodeTableWord 64 0x0000000000000043 = some .close := by decide

/-- Host access words (V44). -/
theorem test_decode_hostAccess :
    decodeTableWord 64 0x0000000000000E50 = some (.crd 0x0E) ∧
    decodeTableWord 64 0x0000080000000551 = some (.cwr 5 2048) ∧
    decodeTableWord 64 0x00000000059B0352 = some (.ldb 3 1435) ∧
    decodeTableWord 64 0x000000AA07FF0253 = some (.stb 2 2047 0xAA) := by decide

/-- V30-1 to V30-18, V42-4, V44-17: words that no command has. -/
theorem test_decode_refuses :
    ([0x0000000000000000, 0x000000000000001A, 0x00000000000000FF, 0x0000000000012310, 0x0000000000032116,
      0x0000000000000818, 0x0000000000200320, 0x0000000000000324, 0x000000000006002A, 0x000000000020002A,
      0x000001000001002B, 0x0000000000200027, 0x0000000000000131, 0x0000000500000040, 0x0000000000000240,
      0x0000000500000041, 0x0000000000000142, 0x0000000100000043, 0x0000000000000330, 0x0000010000000053].all
        fun w => decodeTableWord 64 w == none) = true := by decide

/-- V30-7: a refused word answers `(VAL_ILLEGAL, 0)` and changes nothing. -/
theorem test_refused_word :
    run named 0x0000000000200320 = { named with responses := [⟨.valIllegal, 0⟩] } := by decide

/-! ### Field model -/

/-- V40-10, V40-8. -/
theorem test_getsp : answer State.reset 0xE310 = some ⟨.ok, 0xE0⟩ ∧ answer State.reset 0x7F10 = some ⟨.ok, 0x60⟩ := by decide

/-- 2.1, predicate words. -/
theorem test_isaudio : answer State.reset 0x1F11 = some ⟨.ok, 1⟩ ∧ answer State.reset 0x8011 = some ⟨.ok, 0⟩ := by decide

/-- 2.1, predicate words; V40-3. -/
theorem test_isserial : answer State.reset 0x3F12 = some ⟨.ok, 1⟩ ∧ answer State.reset 0x1F12 = some ⟨.ok, 0⟩ := by decide

/-- 2.1, predicate words; V40-7. -/
theorem test_istext : answer State.reset 0x5F13 = some ⟨.ok, 1⟩ ∧ answer State.reset 0x6013 = some ⟨.ok, 0⟩ := by decide

/-- 2.1, predicate words; V40-9. -/
theorem test_isservice : answer State.reset 0x7F14 = some ⟨.ok, 1⟩ ∧ answer State.reset 0x8014 = some ⟨.ok, 0⟩ := by decide

/-- V40-8, V40-10. -/
theorem test_getsr : answer State.reset 0x7F15 = some ⟨.ok, 31⟩ ∧ answer State.reset 0xE315 = some ⟨.ok, 3⟩ := by decide

/-- V40-20, V40-24, V40-28, V40-30, V40-31. -/
theorem test_getrate :
    answer State.reset 0x030016 = some ⟨.ok, 48000⟩ ∧ answer State.reset 0x1F0016 = some ⟨.ok, 0⟩ ∧
    answer State.reset 0x0E4016 = some ⟨.ok, 115200⟩ ∧ answer State.reset 0x192016 = some ⟨.ok, 0⟩ ∧
    answer State.reset 0x036016 = some ⟨.ok, 0⟩ := by decide

/-- V40-14, V40-17. -/
theorem test_getdt : answer State.reset 0x0817 = some ⟨.ok, 0⟩ ∧ answer State.reset 0xF717 = some ⟨.ok, 7⟩ := by decide

/-- 2.1: data types 2, 5 and 7. -/
theorem test_dtsize :
    answer State.reset 0x0218 = some ⟨.ok, 0⟩ ∧ answer State.reset 0x0518 = some ⟨.ok, 8⟩ ∧
    answer State.reset 0x0718 = some ⟨.ok, 0⟩ := by decide

/-- V40-18 and the word with the sub-protocol TEXT. -/
theorem test_getcodec :
    answer State.reset 0xFF19 = some ⟨.ok, 0xF0⟩ ∧ answer State.reset 0x401919 = some ⟨.ok, 0x10⟩ := by decide

/-! ### Header codec -/

/-- V41-2. -/
theorem test_hnew :
    (run named 0xE00120).h1 =
      { Header.zero with magic := 0x4E414256, formatSr := 0xE0, streamName := name stream1 } := by decide

/-- V41-3. -/
theorem test_setname :
    (run { State.reset with
            h0 := { Header.zero with
              streamName := name [0x41, 0x42, 0x43, 0x44, 0x45, 0x46, 0x47, 0x48, 0x49, 0x4A, 0x4B, 0x4C, 0x4D, 0x4E, 0x4F, 0x50] }
            nbuf := Memory.place 0 [0x61, 0x62, 0x63], nlen := 3 } 0x21).h0.streamName = name [0x61, 0x62, 0x63] := by decide

/-- V41-4: the name ends at its first zero byte, and `NRES` is zero-filled. -/
theorem test_getname :
    let t := run { State.reset with
      h0 := { Header.zero with streamName := name [0x61, 0, 0x62] }, nres := Memory.place 0 [1, 2, 3] } 0x22
    t.responses = [⟨.ok, 1⟩] ∧ t.nres = [(0, 0x61)] ∧ t.nresLen = 1 := by decide

/-- P4: a name of 16 bytes has no end but the field's. -/
theorem test_getname_full :
    let t := run { State.reset with h0 := { Header.zero with streamName := nameOfFn fun _ => 0x41 } } 0x22
    t.responses = [⟨.ok, 16⟩] ∧ t.nresLen = 16 ∧ Memory.read t.nres 15 = 0x41 := by decide

/-- V41-6. -/
theorem test_getspf :
    answer { State.reset with h0 := { Header.zero with formatNbs := 0xFF } } 0x23 = some ⟨.ok, 256⟩ := by decide

/-- T4: 256 is stored as 0xFF. -/
theorem test_setspf : (run State.reset 0x01000024).h0.formatNbs = 0xFF := by decide

/-- V41-7. -/
theorem test_setspf_range :
    run working9 0xFFFF0024 = { working9 with responses := [⟨.valSpfRange, 65535⟩] } := by decide

/-- R155 on the count of V41-9. -/
theorem test_getch : answer working9 0x25 = some ⟨.ok, 2⟩ := by decide

/-- P1 step 12: 2 is stored as 1. -/
theorem test_setch : (run State.reset 0x00020026).h0.formatNbc = 1 := by decide

/-- V41-8. -/
theorem test_setch_range :
    run working9 0x01010026 = { working9 with responses := [⟨.valChRange, 257⟩] } := by decide

/-- V41-12. -/
theorem test_setafmt_reserved :
    (run { State.reset with h0 := { Header.zero with formatSr := 0xE3, formatBit := 0xFF } } 0x27).h0 = Header.zero := by decide

/-- R157: `b[11]` set, codec 0xA, data type 5, index 31. -/
theorem test_setafmt :
    (run State.reset 0xAD1F0227).h2 = { Header.zero with formatSr := 0x1F, formatBit := 0xA5 } := by decide

/-- V41-9. -/
theorem test_hmarshal :
    let t := run working9 0x28
    t.responses = [⟨.ok, 28⟩] ∧ t.txlen = 28 ∧ Memory.readBytes t.txbuf 0 28 = image9 := by decide

/-- V41-10, V41-16. -/
theorem test_hunmarshal :
    (run (received 28) 0x129).h1 = header9 ∧ answer (received 100) 0x29 = some ⟨.ok, 0⟩ := by decide

/-- V41-18, and P2 steps 54 and 58. -/
theorem test_hunmarshal_fails :
    run (received 0) 0x29 = { received 0 with responses := [⟨.protoShort, 0⟩] } ∧
    answer (receivedBad 28) 0x29 = some ⟨.protoBadMagic, 0x4E414200⟩ ∧
    answer (received 27) 0x29 = some ⟨.protoShort, 27⟩ := by decide

/-- R161 on the header of V41-9: `FORMAT_NBS`, and the last byte of the name. -/
theorem test_hrd :
    answer working9 0x0002002A = some ⟨.ok, 0x3F⟩ ∧ answer working9 0x0016002A = some ⟨.ok, 0x31⟩ ∧
    answer working9 0x0000002A = some ⟨.ok, 0x4E414256⟩ := by decide

/-- V41-13; `HWR 0, 17, 0x00` of V41-4. -/
theorem test_hwr :
    (run working9 0x000000E30001002B).h0 = { header9 with formatSr := 0xE3 } ∧
    (run working9 0x000000000011002B).h0.streamName = name [0x53, 0, 0x72, 0x65, 0x61, 0x6D, 0x31] := by decide

/-! ### Packet framing -/

/-- P1 step 18, T5. -/
theorem test_pnew :
    (run working9 0x00040030).h1 = header9 ∧ (run working9 0x00040030).tpktLen = 4 ∧
    answer working9 0x059C0030 = some ⟨.ok, 0⟩ := by decide

/-- T5: 1437 bytes. -/
theorem test_pnew_range :
    run working9 0x059D0030 = { working9 with responses := [⟨.valPayloadTooLarge, 1437⟩] } := by decide

/-- P1 step 21: the payload follows the header. -/
theorem test_pmarshal :
    let t := run (packet 4) 0x31
    t.responses = [⟨.ok, 32⟩] ∧ t.txlen = 32 ∧ Memory.readBytes t.txbuf 0 32 = image9 ++ [0xDE, 0xAD, 0xBE, 0xEE] := by decide

/-- V42-6, V42-7. -/
theorem test_pmarshal_fails :
    run State.reset 0x31 = { State.reset with responses := [⟨.valNilPacket, 0⟩] } ∧
    run (packet 2048) 0x31 = { packet 2048 with responses := [⟨.valPayloadTooLarge, 2048⟩] } := by decide

/-- P2 step 34. -/
theorem test_punmarshal :
    let t := run (received 32) 0x32
    t.responses = [⟨.ok, 4⟩] ∧ t.h2 = header9 ∧ t.rpktLen = 4 ∧ t.rpktValid = true ∧
    Memory.readBytes t.rpmem 0 4 = [0xDE, 0xAD, 0xBE, 0xEE] := by decide

/-- V42-8, V42-11, V42-12, P2 step 50. -/
theorem test_punmarshal_fails :
    answer (received 0) 0x32 = some ⟨.protoShort, 0⟩ ∧ answer (received 1465) 0x32 = some ⟨.protoOversize, 1465⟩ ∧
    answer (receivedBad 1465) 0x32 = some ⟨.protoOversize, 1465⟩ ∧
    answer (receivedBad 28) 0x32 = some ⟨.protoBadMagic, 0x4E414200⟩ := by decide

/-! ### Packetizer -/

/-- V43-1, V43-3. -/
theorem test_epopen :
    (run State.reset 0x40).epState = 0b0001 ∧ answer (opened State.reset) 0x40 = some ⟨.valIllegal, 0⟩ := by decide

/-- V43-2. -/
theorem test_epopen_fails :
    run (noOpen State.reset) 0x0000000500000140 = { noOpen State.reset with responses := [⟨.trOpenFail, 0⟩] } := by decide

/-- V43-7 to V43-10: the datagram, and the three answers of the environment. -/
theorem test_send :
    (run (dialed (packet 0) 7) 0x0A00000900000141).offered = [⟨image9, 0x0A000009⟩] ∧
    (run (dialed (packet 0) 7) 0x41).offered = [⟨image9, 7⟩] ∧
    answer (answering (opened (packet 0)) false 28) 0x0A00000900000141 = some ⟨.ok, 28⟩ ∧
    answer (answering (opened (packet 0)) false 27) 0x0A00000900000141 = some ⟨.trShortWrite, 27⟩ ∧
    answer (answering (opened (packet 0)) true 28) 0x0A00000900000141 = some ⟨.trWrite, 0⟩ := by decide

/-- V43-4, V43-5, V43-6, T8: nothing is offered. -/
theorem test_send_fails :
    run (packet 0) 0x0A00000900000141 = { packet 0 with responses := [⟨.trClosed, 0⟩] } ∧
    answer State.reset 0x41 = some ⟨.trClosed, 0⟩ ∧
    answer (opened State.reset) 0x41 = some ⟨.valNilPacket, 0⟩ ∧
    run (opened (packet 0)) 0x41 = { opened (packet 0) with responses := [⟨.valNoDest, 0⟩] } := by decide

/-- V43-12, T8. -/
theorem test_recv :
    (run (opened State.reset) 0x42).epState = 0b0101 ∧ answer pending 0x42 = some ⟨.valIllegal, 0⟩ ∧
    answer State.reset 0x42 = some ⟨.trClosed, 0⟩ := by decide

/-- V43-23. -/
theorem test_close_pending :
    let t := run pending 0x43
    t.responses = [⟨.ok, 0⟩] ∧ t.epState = 0b1000 ∧ t.rxStatus = 0xC5 ∧ t.rxlen = 0 ∧ t.rpktValid = false ∧
    t.raddrValid = false := by decide

/-- T8: a second close; and R195 on an endpoint with a remote. -/
theorem test_close :
    run State.reset 0x43 = { State.reset with responses := [⟨.ok, 0⟩] } ∧ (run (dialed State.reset 7) 0x43).epState = 0 ∧
    (run (dialed State.reset 7) 0x43).epRemote = 0 := by decide

/-- V43-16. -/
theorem test_deliver :
    let t := event pending (.deliver image9 9)
    t.rxStatus = 0x00 ∧ t.rxInfo = 0 ∧ t.rpktValid = true ∧ t.rpktLen = 0 ∧ t.h2 = header9 ∧ t.raddr = 9 ∧
    t.raddrValid = true ∧ t.epState = 0b1001 := by decide

/-- V43-13, V43-14, V43-17. -/
theorem test_deliver_fails :
    (event pending (.deliver [] 9)).rxStatus = 0xC6 ∧
    ((event pending (.deliver [0x56] 9)).rxStatus = 0x81 ∧ (event pending (.deliver [0x56] 9)).rxInfo = 1) ∧
    ((event pending (.deliver badImage 9)).rxStatus = 0x82 ∧
      (event pending (.deliver badImage 9)).rxInfo = 0x4E414200) := by decide

/-- V43-21, V43-22. -/
theorem test_readError :
    (event pending (.readError false)).rxStatus = 0xC4 ∧ (event pending (.readError true)).rxStatus = 0xC5 ∧
    (event pending (.readError true)).epState = 0b1001 := by decide

/-- V43-24. -/
theorem test_event_not_enabled :
    step { opened State.reset with inputs := [.deliver image9 9] } = .fault .networkEventNotEnabled := rfl

/-- R44, R252: nothing to take, nothing changes. -/
theorem test_idle : step State.reset = .next State.reset := rfl

/-! ### Host access -/

/-- V44-1, V44-21; P1 step 22. -/
theorem test_crd :
    answer State.reset 0x0E50 = some ⟨.valIllegal, 0⟩ ∧ answer State.reset 0x50 = some ⟨.ok, 0⟩ ∧
    answer { State.reset with txlen := 32 } 0x0850 = some ⟨.ok, 32⟩ := by decide

/-- V44-4, V44-2. -/
theorem test_cwr :
    (run State.reset 0x0000080000000551).tpktLen = 2048 ∧
    run named 0x0000004100000251 = { named with responses := [⟨.valIllegal, 0⟩] } := by decide

/-- V44-3, V44-5 to V44-8. -/
theorem test_cwr_refuses :
    answer State.reset 0x0000000200000451 = some ⟨.valIllegal, 0⟩ ∧
    answer State.reset 0x0000080100000551 = some ⟨.valIllegal, 0⟩ ∧
    answer State.reset 0x0000000000000851 = some ⟨.valIllegal, 0⟩ ∧
    answer State.reset 0x0000000100000051 = some ⟨.valIllegal, 0⟩ ∧
    answer pending 0x0000000500000951 = some ⟨.valIllegal, 0⟩ := by decide

/-- V44-9 to V44-14: the last byte of each space, and one on. -/
theorem test_ldb_ends :
    ([0x003F0052, 0x000F0152, 0x07FF0252, 0x059B0352, 0x05B70452, 0x05B80552].all fun w =>
      answer State.reset w == some ⟨.ok, 0⟩) = true ∧
    ([0x00400052, 0x00100152, 0x08000252, 0x059C0352, 0x05B80452, 0x05B90552, 0x0652].all fun w =>
      answer State.reset w == some ⟨.valIllegal, 0⟩) = true := by decide

/-- R212 on the name operand `"Stream1"` and on the payload `DE AD BE EE`. -/
theorem test_ldb : answer named 0x00060052 = some ⟨.ok, 0x31⟩ ∧ answer (packet 4) 0x00030252 = some ⟨.ok, 0xEE⟩ := by decide

/-- V44-18, V44-19, P1 step 20. -/
theorem test_stb :
    (run State.reset 0x000000AA07FF0253).tpmem = [(2047, 0xAA)] ∧
    (run State.reset 0x0000005505B80553).rxbuf = [(1464, 0x55)] ∧
    (run (packet 4) 0x000000EF00030253).tpmem = [(0, 0xDE), (1, 0xAD), (2, 0xBE), (3, 0xEF)] := by decide

/-- V44-16, V44-20. -/
theorem test_stb_refuses :
    answer State.reset 0x0000000100000153 = some ⟨.valIllegal, 0⟩ ∧
    answer State.reset 0x0000000100000353 = some ⟨.valIllegal, 0⟩ ∧
    answer State.reset 0x0000000000000453 = some ⟨.valIllegal, 0⟩ ∧
    answer pending 0x0000000100000553 = some ⟨.valIllegal, 0⟩ := by decide

/-- R45, R62: storing zero removes the entry, so equal contents are equal data. -/
theorem test_store_canonical : (run (packet 4) 0x0000000000010253).tpmem = [(0, 0xDE), (2, 0xBE), (3, 0xEE)] := by decide

/-! ### Witnesses: states and operands that meet the hypotheses of each statement, each clause at the ends of its range -/

/-- DecodeUndoesEncode: a well-formed command with its operands at their largest. -/
theorem witness_DecodeUndoesEncode :
    (Instr.hwr .receive (.name 15) 0xFF).wf = true ∧ encode (.hwr .receive (.name 15) 0xFF) = 0x000000FF001F022B := by decide

/-- EncodeUndoesDecode: the largest defined word of `STB`. -/
theorem witness_EncodeUndoesDecode : decode 0x000000FFFFFFFF53 = .ok (.stb 0xFF 0xFFFF 0xFF) := by rfl

/-- StepRunsTheDecodedCommand. -/
theorem witness_StepRunsTheDecodedCommand :
    NextCommand { State.reset with inputs := [.command 0x42 State.reset.env] } 0x42 State.reset.env [] ∧
    decode 0x42 = .ok .recv := ⟨rfl, by rfl⟩

/-- UndefinedWordIsRefused: V30-1 is no defined word. -/
theorem witness_UndefinedWordIsRefused :
    NextCommand { State.reset with inputs := [.command 0 State.reset.env] } 0 State.reset.env [] ∧ ¬ DefinedWord 0 := by
  refine ⟨rfl, ?_⟩
  rintro ⟨o, h, -⟩
  revert h
  cases o <;> decide

/-- GetrateLooksUpItsTable: indices 20 and 21 of the one table, 24 and 25 of the other (V40-22, V40-23, V40-29, V40-30), and the
tags 3 and 7. -/
theorem witness_GetrateLooksUpItsTable :
    (0 : BitVec 3).toNat = 0 ∧ State.reset.cfg.srTable[(20 : BitVec 5).toNat]? = some (some 705600) ∧
    State.reset.cfg.srTable[(21 : BitVec 5).toNat]? = some none ∧
    State.reset.cfg.srTable[(31 : BitVec 5).toNat]? = some none ∧
    (1 : BitVec 3).toNat = 1 ∧ (2 : BitVec 3).toNat = 2 ∧
    State.reset.cfg.bpsTable[(24 : BitVec 5).toNat]? = some (some 3000000) ∧
    State.reset.cfg.bpsTable[(25 : BitVec 5).toNat]? = some none ∧
    3 ≤ (3 : BitVec 3).toNat ∧ 3 ≤ (7 : BitVec 3).toNat := by decide

/-- FieldModelIsPure: two states that differ, for a command without and with the tables. -/
theorem witness_FieldModelIsPure :
    isFieldModel (.getsp 0xFF) = true ∧ (Instr.getsp 0xFF).opcode ≠ .getrate ∧
    isFieldModel (.getrate 0 31) = true ∧ named.cfg = State.reset.cfg ∧ named ≠ State.reset := by decide

/-- CountSettersStoreMinusOne: the counts 1 and 256, 0, 257 and 65535. -/
theorem witness_CountSettersStoreMinusOne :
    (1 ≤ (1 : Half).toNat ∧ (1 : Half).toNat ≤ 256) ∧ (1 ≤ (256 : Half).toNat ∧ (256 : Half).toNat ≤ 256) ∧
    (0 : Half).toNat = 0 ∧ 256 < (257 : Half).toNat ∧ 256 < (65535 : Half).toNat := by decide

/-- StoredCountsReadBack: the counts 1 and 256 together. -/
theorem witness_StoredCountsReadBack :
    1 ≤ (256 : Half).toNat ∧ (256 : Half).toNat ≤ 256 ∧ 1 ≤ (1 : Half).toNat ∧ (1 : Half).toNat ≤ 256 := by decide

/-- HunmarshalDecodesOrFails: 27 bytes; 28 and 1465 bytes of the right magic; 28 bytes of a wrong one. -/
theorem witness_HunmarshalDecodesOrFails :
    (received 27).rxlen.toNat < 28 ∧
    (28 ≤ (received 28).rxlen.toNat ∧ header9.ImageIn (received 28).rxbuf ∧ header9.magic = (received 28).cfg.magic) ∧
    28 ≤ (received 1465).rxlen.toNat ∧
    (28 ≤ (receivedBad 28).rxlen.toNat ∧
      ({ Header.zero with magic := 0x4E414200 } : Header).ImageIn (receivedBad 28).rxbuf ∧
      (0x4E414200 : Word) ≠ (receivedBad 28).cfg.magic) := by
  unfold Header.ImageIn
  decide

/-- HrdReadsTheSelectedField: the first and the last byte of the name. -/
theorem witness_HrdReadsTheSelectedField :
    (working9.bank .working).formatSr = 0x03 ∧
    (working9.bank .working).streamName.toList.getD (0 : BitVec 4).toNat 0 = 0x53 ∧
    (working9.bank .working).streamName.toList.getD (15 : BitVec 4).toNat 0 = 0 := by decide

/-- HwrWritesTheSelectedField: the values 0xFF and 0x100 for an 8-bit field. -/
theorem witness_HwrWritesTheSelectedField :
    (0xFF : Word).toNat < 256 ∧ Field.name 15 ≠ .magic ∧ Field.name 15 ≠ .frameCounter ∧ 256 ≤ (0x100 : Word).toNat ∧
    256 ≤ (0xFFFFFFFF : Word).toNat := by decide

/-- TooWideHwrTermIsRefused: the least and the largest value too wide, in the first and the last 8-bit field. -/
theorem witness_TooWideHwrTermIsRefused :
    (Field.formatSr ≠ .magic ∧ Field.formatSr ≠ .frameCounter ∧ 256 ≤ (0x100 : Word).toNat) ∧
    (Field.name 15 ≠ .magic ∧ Field.name 15 ≠ .frameCounter ∧ 256 ≤ (0xFFFFFFFF : Word).toNat) := by decide

/-- WrittenFieldReadsBack: a value that fits, and another field of the same and of another bank. -/
theorem witness_WrittenFieldReadsBack :
    (Field.name 15).fits 0xFF = true ∧ Field.magic.fits 0xFFFFFFFF = true ∧ Field.name 14 ≠ Field.name 15 ∧
    Bank.transmit ≠ Bank.working := by decide

/-- HeaderImageIsABijection: a 28-byte string. -/
theorem witness_HeaderImageIsABijection : image9.length = 28 ∧ 27 < 28 := by decide

/-- OnlyNamedCommandsWriteABank: `HNEW` of the working bank and the transmit bank; `SETSPF` and the frame counter. -/
theorem witness_OnlyNamedCommandsWriteABank :
    (∃ t, exec (.hnew .working 7) named = .next t) ∧ writesBank .transmit (.hnew .working 7) = false ∧
    (∃ t, exec (.setspf .working 256) named = .next t) ∧ writesCounter (.setspf .working 256) = false :=
  ⟨⟨_, rfl⟩, rfl, ⟨_, rfl⟩, rfl⟩

/-- PnewBuildsTheTransmitPacket: 1436 and 1437. -/
theorem witness_PnewBuildsTheTransmitPacket : (1436 : Half).toNat ≤ 1436 ∧ 1436 < (1437 : Half).toNat := by decide

/-- PmarshalComposesTheDatagram: no packet; lengths 0 and 1436; lengths 1437 and 2048. -/
theorem witness_PmarshalComposesTheDatagram :
    State.reset.tpktValid = false ∧ (packet 0).tpktValid = true ∧ (packet 0).tpktLen.toNat ≤ 1436 ∧
    (packet 1436).tpktLen.toNat = 1436 ∧ 1436 < (packet 1437).tpktLen.toNat ∧ 1436 < (packet 2048).tpktLen.toNat ∧
    (packet 2048).tpktValid = true := by decide

/-- PunmarshalSplitsOrRejects: 27, 28, 1464 and 1465 bytes, with the right magic and with a wrong one. -/
theorem witness_PunmarshalSplitsOrRejects :
    (received 27).rxlen.toNat < 28 ∧ 1464 < (received 1465).rxlen.toNat ∧
    (28 ≤ (received 28).rxlen.toNat ∧ (received 28).rxlen.toNat ≤ 1464) ∧ (received 1464).rxlen.toNat = 1464 ∧
    (header9.ImageIn (received 28).rxbuf ∧ header9.magic = (received 28).cfg.magic) ∧
    (28 ≤ (receivedBad 28).rxlen.toNat ∧
      ({ Header.zero with magic := 0x4E414200 } : Header).ImageIn (receivedBad 28).rxbuf ∧
      (0x4E414200 : Word) ≠ (receivedBad 28).cfg.magic) := by
  unfold Header.ImageIn
  decide

/-- MarshalledPacketRoundTrips: a packet of 4 bytes and a second block that holds its 32 bytes, with the right magic; and a
packet whose magic is not the constant. -/
theorem witness_MarshalledPacketRoundTrips :
    (packet 4).tpktValid = true ∧ (packet 4).tpktLen.toNat ≤ 1436 ∧
    (let t := run (packet 4) 0x31
     (received 32).cfg.magic = (packet 4).cfg.magic ∧ (received 32).rxlen = t.txlen ∧
      ∀ i < t.txlen.toNat, Memory.read (received 32).rxbuf i = Memory.read t.txbuf i) ∧
    (packet 4).h1.magic = (packet 4).cfg.magic ∧
    ({ packet 4 with h1 := { header9 with magic := 0 } } : State).h1.magic ≠ (packet 4).cfg.magic := by decide

/-- HeaderByValuePayloadByReference: 1436 bytes, the last byte of the image and of the datagram, a fitting value in banks 0 and
2, the last byte of the payload. -/
theorem witness_HeaderByValuePayloadByReference :
    (1436 : Half).toNat ≤ 1436 ∧ 27 < 28 + (0 : Half).toNat ∧ 1463 < 28 + (1436 : Half).toNat ∧
    Bank.working ≠ .transmit ∧ Bank.receive ≠ .transmit ∧ Field.frameCounter.fits 0xFFFFFFFF = true ∧ (1435 : Half).toNat < (1436 : Half).toNat := by
  decide

/-- EpopenOpensAClosedEndpoint: open; closed and the environment refuses; closed and it does not. -/
theorem witness_EpopenOpensAClosedEndpoint :
    (opened State.reset).epOpen = true ∧ ((noOpen State.reset).epOpen = false ∧ (noOpen State.reset).env.openOk = false) ∧
    (State.reset.epOpen = false ∧ State.reset.env.openOk = true) := by decide

/-- SendChecksThenOffersOneDatagram: each check, lengths 0 and 1436, 1437 and 2048, both destinations, and the environment's
answers at 27 and 28 bytes of 28. -/
theorem witness_SendChecksThenOffersOneDatagram :
    (packet 4).epOpen = false ∧
    ((opened State.reset).epOpen = true ∧ (opened State.reset).tpktValid = false) ∧
    ((opened (packet 1437)).tpktValid = true ∧ 1436 < (opened (packet 1437)).tpktLen.toNat) ∧
    1436 < (opened (packet 2048)).tpktLen.toNat ∧
    ((opened (packet 1436)).tpktLen.toNat ≤ 1436 ∧ (opened (packet 1436)).epHasRemote = false) ∧
    ((dialed (packet 0) 7).epOpen = true ∧ (dialed (packet 0) 7).tpktValid = true ∧
      (dialed (packet 0) 7).epHasRemote = true ∧ (7 : Word) = (dialed (packet 0) 7).epRemote) ∧
    (answering (opened (packet 0)) true 28).env.wrErr = true ∧
    ((answering (opened (packet 0)) false 27).env.wrErr = false ∧
      (answering (opened (packet 0)) false 27).env.wrN < 28 + (packet 0).tpktLen.toNat) ∧
    (answering (opened (packet 0)) false 28).env.wrN = 28 + (packet 0).tpktLen.toNat := by decide

/-- RecvStartsOneReceive: closed; pending; open with no receive pending. -/
theorem witness_RecvStartsOneReceive :
    State.reset.epOpen = false ∧ (pending.epOpen = true ∧ pending.epRxPending = true) ∧
    ((opened State.reset).epOpen = true ∧ (opened State.reset).epRxPending = false) := by decide

/-- CloseCompletesAPendingReceive: the same three states. -/
theorem witness_CloseCompletesAPendingReceive :
    State.reset.epOpen = false ∧ ((opened State.reset).epOpen = true ∧ (opened State.reset).epRxPending = false) ∧
    (pending.epOpen = true ∧ pending.epRxPending = true) := by decide

/-- DeliverCompletesThePendingReceive: a delivery to a pending receive of 0, 1, 27, 28, 1464, 1465 and 1466 bytes, and 28 bytes of
the right and of a wrong magic. -/
theorem witness_DeliverCompletesThePendingReceive :
    ({ pending with inputs := [.deliver image9 9] } : State).inputs = .deliver image9 9 :: [] ∧
    ({ pending with inputs := [.deliver image9 9] } : State).epRxPending = true ∧
    (∀ n ∈ [0, 1, 27, 28, 1464, 1465], min (List.replicate n (0 : Byte)).length 1465 = n) ∧
    min (List.replicate 1466 (0 : Byte)).length 1465 = 1465 ∧
    (min image9.length 1465 = 28 ∧ (∀ i < 28, header9.wireByte i = image9.getD i 0) ∧ header9.magic = pending.cfg.magic) ∧
    (min badImage.length 1465 = 28 ∧
      (∀ i < 28, ({ Header.zero with magic := 0x4E414200 } : Header).wireByte i = badImage.getD i 0) ∧
      (0x4E414200 : Word) ≠ pending.cfg.magic) := by
  refine ⟨rfl, rfl, fun n hn => ?_, ?_, by decide, by decide⟩
  · rw [List.length_replicate]
    revert n
    decide
  · rw [List.length_replicate]
    rfl

/-- ReadErrorFailsThePendingReceive, for both kinds of error. -/
theorem witness_ReadErrorFailsThePendingReceive :
    ({ pending with inputs := [.readError true] } : State).inputs = .readError true :: [] ∧
    ({ pending with inputs := [.readError false] } : State).inputs = .readError false :: [] ∧
    pending.epRxPending = true := by decide

/-- EventsNeedAPendingReceive, for both events. -/
theorem witness_EventsNeedAPendingReceive :
    (opened State.reset).epRxPending = false ∧
    ({ opened State.reset with inputs := [.deliver image9 9] } : State).inputs = .deliver image9 9 :: [] ∧
    ({ opened State.reset with inputs := [.readError true] } : State).inputs = .readError true :: [] := by decide

/-- OnlySendOffersDatagrams: a step that offers one, and a step that offers none. -/
theorem witness_OnlySendOffersDatagrams :
    (∃ t, step ((dialed (packet 4) 7).withFetchWord 64 0x41) = .next t) ∧ (∃ t, step (named.withFetchWord 64 0x42) = .next t) :=
  ⟨⟨_, rfl⟩, ⟨_, rfl⟩⟩

/-- OnlyEpopenAndCloseMoveTheEndpoint: a network event, and a command that is neither. -/
theorem witness_OnlyEpopenAndCloseMoveTheEndpoint :
    (∃ t, step { pending with inputs := [.readError true] } = .next t) ∧
    (∀ w env rest, ¬ NextCommand { pending with inputs := [.readError true] } w env rest) ∧
    (∃ t, step (pending.withFetchWord 64 0x41) = .next t) ∧ decode 0x41 = .ok (.send none) :=
  ⟨⟨_, rfl⟩, fun _ _ _ h => by simp [NextCommand] at h, ⟨_, rfl⟩, by rfl⟩

/-- PendingReceiveOwnsItsBuffer: a store into the buffer, and a second receive, both refused. -/
theorem witness_PendingReceiveOwnsItsBuffer :
    pending.epRxPending = true ∧ Instr.stb 5 0 1 ≠ .close ∧ (∃ t, exec (.stb 5 0 1) pending = .next t) ∧
    (∃ t, exec .recv pending = .next t) := ⟨rfl, by decide, ⟨_, rfl⟩, ⟨_, rfl⟩⟩

/-- LoopbackDeliversThePacket: a sender with a packet and an explicit address, or with an associated remote and none, and a
receiver with a receive pending. -/
theorem witness_LoopbackDeliversThePacket :
    pending.cfg = (opened (packet 1436)).cfg ∧ (opened (packet 1436)).epOpen = true ∧
    (opened (packet 1436)).tpktValid = true ∧ (opened (packet 1436)).tpktLen.toNat ≤ 1436 ∧
    (opened (packet 1436)).h1.magic = (opened (packet 1436)).cfg.magic ∧ pending.epRxPending = true ∧
    pending.cfg = (dialed (packet 0) 7).cfg ∧ (dialed (packet 0) 7).epOpen = true ∧
    (dialed (packet 0) 7).tpktValid = true ∧ (dialed (packet 0) 7).tpktLen.toNat ≤ 1436 ∧
    (dialed (packet 0) 7).h1.magic = (dialed (packet 0) 7).cfg.magic ∧ (dialed (packet 0) 7).epHasRemote = true ∧
    (7 : Word) = (dialed (packet 0) 7).epRemote := by decide

/-- CrdReadsEveryRegister: the registers 0x00 and 0x0D, and the numbers 0x0E and 0xFF. -/
theorem witness_CrdReadsEveryRegister :
    (0x00 : Byte).toNat ≤ 0x0D ∧ (0x0D : Byte).toNat ≤ 0x0D ∧ 0x0D < (0x0E : Byte).toNat ∧ 0x0D < (0xFF : Byte).toNat := by
  decide

/-- CwrWritesOnlyLegalValues: each writable register at its largest value and one on, and a number that is not writable. -/
theorem witness_CwrWritesOnlyLegalValues :
    ((0x02 : Byte).toNat = 0x02 ∧ (64 : Word).toNat ≤ 64 ∧ 64 < (65 : Word).toNat) ∧
    ((0x04 : Byte).toNat = 0x04 ∧ (1 : Word).toNat ≤ 1 ∧ 1 < (2 : Word).toNat) ∧
    ((0x05 : Byte).toNat = 0x05 ∧ (2048 : Word).toNat ≤ 2048 ∧ 2048 < (2049 : Word).toNat) ∧
    ((0x09 : Byte).toNat = 0x09 ∧ (1465 : Word).toNat ≤ 1465 ∧ 1465 < (1466 : Word).toNat) ∧
    (named.epRxPending = false ∧ pending.epRxPending = true) ∧
    ((0x08 : Byte).toNat ≠ 0x02 ∧ (0x08 : Byte).toNat ≠ 0x04 ∧ (0x08 : Byte).toNat ≠ 0x05 ∧ (0x08 : Byte).toNat ≠ 0x09) := by
  decide

/-- LdbReadsOneByte: the last byte of the first and the last space and one on, and a space that does not exist. -/
theorem witness_LdbReadsOneByte :
    (63 : Half).toNat < [64, 16, 2048, 1436, 1464, 1465].getD (0 : Byte).toNat 0 ∧
    (1464 : Half).toNat < [64, 16, 2048, 1436, 1464, 1465].getD (5 : Byte).toNat 0 ∧
    [64, 16, 2048, 1436, 1464, 1465].getD (5 : Byte).toNat 0 ≤ (1465 : Half).toNat ∧
    [64, 16, 2048, 1436, 1464, 1465].getD (6 : Byte).toNat 0 ≤ (0 : Half).toNat := by decide

/-- StbWritesOneByte: the last byte of each writable space and one on, a pending receive, and a read-only space. -/
theorem witness_StbWritesOneByte :
    ((0 : Byte).toNat = 0 ∧ (63 : Half).toNat < 64 ∧ 64 ≤ (64 : Half).toNat) ∧
    ((2 : Byte).toNat = 2 ∧ (2047 : Half).toNat < 2048 ∧ 2048 ≤ (2048 : Half).toNat) ∧
    ((5 : Byte).toNat = 5 ∧ (1464 : Half).toNat < 1465 ∧ named.epRxPending = false ∧ 1465 ≤ (1465 : Half).toNat ∧
      pending.epRxPending = true) ∧
    ((4 : Byte).toNat ≠ 0 ∧ (4 : Byte).toNat ≠ 2 ∧ (4 : Byte).toNat ≠ 5) := by decide

/-- ResetReadsAsZero: the last register. -/
theorem witness_ResetReadsAsZero : (0x0D : Byte).toNat ≤ 0x0D := by decide

/-- EveryStepKeepsTheInvariant: reset meets the invariant, and a command and an event step from it or from a pending receive. -/
theorem witness_EveryStepKeepsTheInvariant :
    ∃ s t, Inv s ∧ step s = .next t ∧ t ≠ s := by
  refine ⟨State.reset.withFetchWord 64 0x40, _, ?_, rfl, by decide⟩
  exact
    { nlen_le := by decide, nresLen_le := by decide, tpktLen_le := by decide, rpktLen_le := by decide
      txlen_le := by decide, rxlen_le := by decide, pending_open := by decide, pending_not_done := by decide
      remote_open := by decide, spaces := fun p => by cases p <;> exact ⟨rfl, rfl⟩, nres_tail := fun _ _ => rfl
      status_legal := ⟨.ok, rfl⟩ }

/-- InternalSizeErrorNeverProduced and StepStopsOnlyOnADisabledEvent: a step that goes on with a response. -/
theorem witness_InternalSizeErrorNeverProduced : ∃ t, step (working9.withFetchWord 64 0x28) = .next t ∧ t.responses ≠ [] :=
  ⟨_, rfl, by decide⟩

/-- ValidationFailuresChangeNothing: a failure of class 1, at both of its ends (0x41, 0x7F). -/
theorem witness_ValidationFailuresChangeNothing :
    (exec (.setspf .working 0) named = .next (named.respond .valSpfRange 0) ∧
      (named.respond .valSpfRange 0).responses = named.responses ++ [⟨.valSpfRange, 0⟩]) ∧
    statusClass Status.valSpfRange.code = 1 ∧ statusClass Status.valIllegal.code = 1 := ⟨⟨rfl, rfl⟩, by decide, by decide⟩

/-- FailuresLeaveTheSendSideAlone: a failed decode into the receive bank, and the command that the exceptions name. -/
theorem witness_FailuresLeaveTheSendSideAlone :
    (∃ t, exec (.hunmarshal .receive) (receivedBad 28) = .next t ∧
      t.responses = (receivedBad 28).responses ++ [⟨.protoBadMagic, 0x4E414200⟩]) ∧
    Status.protoBadMagic ≠ .ok ∧ Instr.hunmarshal .receive ≠ .hunmarshal .working ∧
    Instr.hunmarshal .receive ≠ .hunmarshal .transmit := ⟨⟨_, rfl, by decide⟩, by decide, by decide, by decide⟩

/-- ReadsChangeNothing: a read of each kind. -/
theorem witness_ReadsChangeNothing :
    isPureRead (.getsp 0) = true ∧ isPureRead (.getspf .receive) = true ∧ isPureRead (.ldb 5 1464) = true ∧
    isPureRead (.getname .working) = false := by decide

/-- OnlyNamedCommandsWriteASpace: a store into one space and the five others. -/
theorem witness_OnlyNamedCommandsWriteASpace :
    (∃ t, exec (.stb 0 63 1) named = .next t) ∧ writesSpace .nbuf (.stb 0 63 1) = true ∧
    writesSpace .tpmem (.stb 0 63 1) = false ∧ writesSpace .rxbuf (.stb 0 63 1) = false :=
  ⟨⟨_, rfl⟩, by decide, by decide, by decide⟩

end Sys2Proof.Machine.Tests
end

section
/-! The state's own statements: the invariant at reset and under every step (R37, R46), which commands write a header bank, a frame
counter or the endpoint registers (R28, R29, R36), what reset reads as (R45), and what a step runs (R44, R106). -/

namespace Sys2Proof.Machine

/-! ### The invariant under the shared updates -/

namespace Inv

variable {s : State}

/-- Only the fields the invariant speaks of matter to it: taking an input leaves them. -/
theorem takeInput (hs : Inv s) (rest : List Input) (env : Env) : Inv { s with inputs := rest, env := env } :=
  { hs with }

theorem respond (hs : Inv s) (st : Status) (v : Word) : Inv (s.respond st v) :=
  { hs with }

theorem offer (hs : Inv s) (bs : List Byte) (dest : Word) : Inv (s.offer bs dest) :=
  { hs with }

theorem setBank (hs : Inv s) (k : Bank) (h : Header) : Inv (s.setBank k h) := by
  cases k <;> exact { hs with }

theorem forgetBank (hs : Inv s) (k : Bank) : Inv (s.forgetBank k) :=
  { hs.setBank k (freeHeader s.draws) with }

/-- A write inside its space keeps the six spaces canonical and within their capacities. -/
theorem spaces_write (hs : Inv s) (p : Space) (a : Nat) (bs : List Byte) (hb : a + bs.length ≤ p.capacity) (q : Space) :
    Memory.wf ((s.setSpace p (Memory.write (s.space p) a bs)).space q) = true ∧
      Memory.within q.capacity ((s.setSpace p (Memory.write (s.space p) a bs)).space q) = true := by
  rw [State.space_setSpace]
  by_cases hq : q = p
  · subst hq
    obtain ⟨hwf, hin⟩ := hs.spaces q
    rw [if_pos rfl]
    exact ⟨Memory.wf_write _ a bs hwf, Memory.within_write _ _ a bs hin hb⟩
  · rw [if_neg hq]
    exact hs.spaces q

/-- `NRES` apart, whose tail is zero (R31), a space may be written anywhere below its capacity. -/
theorem writeSpace (hs : Inv s) (p : Space) (a : Nat) (bs : List Byte) (hp : p ≠ .nres)
    (hb : a + bs.length ≤ p.capacity) : Inv (s.setSpace p (Memory.write (s.space p) a bs)) := by
  have hspaces := hs.spaces_write p a bs hb
  cases p with
  | nres => exact absurd rfl hp
  | nbuf | tpmem | rpmem | txbuf | rxbuf => exact { hs with spaces := hspaces }

/-- A name result: 16 bytes, zero from the name's length on (R31, R152). -/
theorem nameResult (hs : Inv s) (bs : List Byte) (n : Nat) (hl : bs.length = 16) (hn : n ≤ 16)
    (hz : ∀ i, n ≤ i → bs.getD i 0 = 0) :
    Inv { s with nres := Memory.write s.nres 0 bs, nresLen := BitVec.ofNat 5 n } := by
  have hlen : (BitVec.ofNat 5 n).toNat = n := by rw [BitVec.toNat_ofNat]; omega
  refine { hs with nresLen_le := ?_, spaces := hs.spaces_write .nres 0 bs ?_, nres_tail := fun i hi => ?_ }
  · exact hlen.trans_le hn
  · simp [Space.capacity, hl]
  · have hi : n ≤ i := hlen ▸ hi
    change Memory.read (Memory.write s.nres 0 bs) i = 0
    rw [Memory.read_write]
    split_ifs with hin
    · exact hz i hi
    · exact hs.nres_tail i (by have := hs.nresLen_le; omega)

theorem compose (hs : Inv s) (bs : List Byte) (hb : bs.length ≤ 1464) : Inv (s.compose bs) :=
  { hs.writeSpace .txbuf 0 bs (by decide) (by simpa [Space.capacity] using hb) with
    txlen_le := by simp only [State.compose_txlen, BitVec.toNat_ofNat]; omega }

/-- Completing a receive ends the wait, so what R37 says of a pending receive holds of none. -/
theorem rxComplete (hs : Inv s) (st : Status) (v : Word) : Inv (s.rxComplete st v) :=
  { hs with pending_open := nofun, pending_not_done := nofun, status_legal := ⟨st, rfl⟩ }

theorem forgetRxbuf (hs : Inv s) : Inv s.forgetRxbuf :=
  { hs.writeSpace .rxbuf 0 ((List.range 1465).map fun i => Config.freeByte (s.draws + i)) (by decide)
      (by simp [Space.capacity]) with }

theorem rxFail (hs : Inv s) (st : Status) : Inv (s.rxFail st) :=
  { hs.forgetRxbuf.rxComplete st 0 with rxlen_le := Nat.zero_le _ }

theorem newPacket (hs : Inv s) (k : Bank) (n : Half) (h : n.toNat ≤ 1436) :
    Inv { s with h1 := s.bank k, tpktLen := n.setWidth 12, tpktValid := true } :=
  { hs with tpktLen_le := by simp only [BitVec.toNat_setWidth]; omega }

/-- A packet stored in the receive packet's registers and bytes (R33, R183). -/
theorem receivePacket (hs : Inv s) (h : Header) (len : BitVec 11) (bs : List Byte) (hl : len.toNat ≤ 1436)
    (hb : bs.length ≤ 1436) :
    Inv { s with h2 := h, rpktLen := len, rpmem := Memory.write s.rpmem 0 bs, rpktValid := true } :=
  { hs.writeSpace .rpmem 0 bs (by decide) (by simpa [Space.capacity] using hb) with rpktLen_le := hl }

theorem unmarshalPacket (hs : Inv s) : Inv (unmarshalPacket s).2 := by
  obtain ⟨st, v, e, -⟩ | ⟨v, h, len, bs, e, hl, hb⟩ := unmarshalPacket_effect s <;> rw [e]
  · exact { hs with }
  · exact hs.receivePacket h len bs hl hb

/-- A datagram's bytes in the receive buffer (R35, R196). -/
theorem receiveBytes (hs : Inv s) (bs : List Byte) (len : BitVec 11) (hb : bs.length ≤ 1465) (hl : len.toNat ≤ 1465) :
    Inv { s with rxbuf := Memory.write s.rxbuf 0 bs, rxlen := len } :=
  { hs.writeSpace .rxbuf 0 bs (by decide) (by simpa [Space.capacity] using hb) with rxlen_le := hl }

theorem netDeliver (hs : Inv s) (bytes : List Byte) (src : Word) : Inv (netDeliver bytes src s) := by
  obtain ⟨bs, len, st, v, ra, rv, d, hb, hl, -, ⟨pv, e⟩ | ⟨h, pl, p, hpl, hp, e⟩⟩ := netDeliver_effect bytes src s <;> rw [e]
  · exact { (hs.receiveBytes bs len hb hl).rxComplete st v with }
  · exact { ((hs.receiveBytes bs len hb hl).receivePacket h pl p hpl hp).rxComplete st v with }

theorem openEndpoint (hs : Inv s) (r : Option Word) :
    Inv { s with epOpen := true, epHasRemote := r.isSome, epRemote := r.getD 0 } :=
  { hs with pending_open := fun _ => rfl, remote_open := fun _ => rfl }

theorem startReceive (hs : Inv s) (h : s.epOpen = true) : Inv { s with epRxPending := true, epRxDone := false } :=
  { hs with pending_open := fun _ => h, pending_not_done := fun _ => rfl }

/-- A closed endpoint has no remote, and none may be left pending (R195). -/
theorem closeEndpoint (hs : Inv s) (hp : s.epRxPending = false) :
    Inv { s with epOpen := false, epHasRemote := false, epRemote := 0 } :=
  { hs with pending_open := fun h => absurd (hp.symm.trans h) (by decide), remote_open := nofun }

theorem sendTo (hs : Inv s) (dest : Word) (h : s.tpktLen.toNat ≤ 1436) : Inv (sendTo dest s) := by
  obtain ⟨st, v, e, -⟩ := sendTo_effect dest s
  rw [e]
  exact ((hs.compose _ (by rw [State.length_flatPacket]; omega)).offer _ _).respond st v

theorem writeReg (hs : Inv s) {t : State} {c : CReg} {v : Word} (h : s.writeReg c v = some t) : Inv t := by
  obtain ⟨hv, rfl⟩ | ⟨hv, rfl⟩ | ⟨hv, rfl⟩ | ⟨hv, -, rfl⟩ := writeReg_effect s t c v h
  · exact { hs with nlen_le := by simp only [BitVec.toNat_setWidth]; omega }
  · exact { hs with }
  · exact { hs with tpktLen_le := by simp only [BitVec.toNat_setWidth]; omega }
  · exact { hs with rxlen_le := by simp only [BitVec.toNat_setWidth]; omega }

theorem hostStore (hs : Inv s) (p : Space) (a : Nat) (v : Byte) (hw : s.hostMayWrite p = true) (ha : a < p.capacity) :
    Inv (s.setSpace p (Memory.write (s.space p) a [v])) :=
  hs.writeSpace p a [v] (by rintro rfl; cases hw) ha

/-- Every command keeps the invariant, one case an effect. -/
theorem commandEffect {i : Instr} {t : State} (hs : Inv s) (h : CommandEffect i s t) : Inv t := by
  cases h with
  | answer => exact hs.respond _ _
  | writeBank => exact (hs.setBank _ _).respond _ _
  | forget => exact (hs.forgetBank _).respond _ _
  | name k _ bs n v hl hn hz => exact (hs.nameResult bs n hl hn hz).respond _ _
  | header => exact (hs.compose _ (by simp)).respond _ _
  | newPacket k n _ h => exact (hs.newPacket k n h).respond _ _
  | packet _ v h => exact (hs.compose _ (by rw [State.length_flatPacket]; omega)).respond _ _
  | split => exact hs.unmarshalPacket.respond _ _
  | opened r => exact (hs.openEndpoint r).respond _ _
  | sent a _ dest h => exact hs.sendTo dest h
  | wait _ h => exact (hs.startReceive h).respond _ _
  | closed _ _ h => exact (hs.closeEndpoint h).respond _ _
  | closedPending => exact ((hs.rxFail .trClosedDuringRead).closeEndpoint rfl).respond _ _
  | register r v _ u c h => exact (hs.writeReg h).respond _ _
  | store n i v _ p hp hw hi => exact (hs.hostStore p _ v hw hi).respond _ _

end Inv

/-- Settles O50: a case analysis on how the step goes on, each case by the lemma of its update. -/
theorem everyStepKeepsTheInvariant : Obligations.EveryStepKeepsTheInvariant := by
  intro s t hs h
  obtain ⟨-, rfl⟩ | ⟨w, env, rest, i, -, -, he⟩ | ⟨w, env, rest, e, -, -, rfl⟩ | ⟨bytes, src, rest, -, -, rfl⟩ |
    ⟨closed, rest, -, -, rfl⟩ := step_cases s t h
  · exact hs
  · exact (hs.takeInput rest env).commandEffect (.of_exec he)
  · exact (hs.takeInput rest env).respond _ _
  · exact (hs.takeInput rest s.env).netDeliver bytes src
  · exact (hs.takeInput rest s.env).rxFail _

/-- Settles O49: every length is zero, the endpoint is closed, every space is empty, and `RXSTATUS` is the code of OK. -/
theorem resetMeetsTheInvariant : Obligations.ResetMeetsTheInvariant where
  nlen_le := by decide
  nresLen_le := by decide
  tpktLen_le := by decide
  rpktLen_le := by decide
  txlen_le := by decide
  rxlen_le := by decide
  pending_open := nofun
  pending_not_done := nofun
  remote_open := nofun
  spaces p := by cases p <;> exact ⟨Memory.wf_nil, Memory.within_nil _⟩
  nres_tail _ _ := rfl
  status_legal := ⟨.ok, rfl⟩

/-! ### The banks and the frame counters (R28, R29) -/

theorem sendTo_bank (dest : Word) (s : State) (k : Bank) : (sendTo dest s).bank k = s.bank k := by
  obtain ⟨st, v, e, -⟩ := sendTo_effect dest s
  rw [e, State.bank_respond, State.bank_offer, State.bank_compose]

/-- Decoding the receive buffer writes no bank but `H[2]` (R183). -/
theorem unmarshalPacket_bank (s : State) (k : Bank) (hk : k ≠ .receive) : (unmarshalPacket s).2.bank k = s.bank k := by
  obtain ⟨st, v, e, -⟩ | ⟨v, h, len, bs, e, -, -⟩ := unmarshalPacket_effect s <;> rw [e]
  · cases k <;> rfl
  · cases k with
    | receive => exact absurd rfl hk
    | working | transmit => rfl

theorem writeReg_bank {s t : State} {c : CReg} {v : Word} (h : s.writeReg c v = some t) (k : Bank) : t.bank k = s.bank k := by
  obtain ⟨-, rfl⟩ | ⟨-, rfl⟩ | ⟨-, rfl⟩ | ⟨-, -, rfl⟩ := writeReg_effect s t c v h <;> rfl

/-- Settles O25: a case analysis on the command's effect; each that writes a bank belongs to a command the spec names. -/
theorem onlyNamedCommandsWriteABank : Obligations.OnlyNamedCommandsWriteABank := by
  intro i s t k h
  cases CommandEffect.of_exec h with
  | writeBank _ _ j g hw hc =>
    rw [State.bank_respond, State.bank_setBank]
    by_cases hk : k = j
    · subst hk
      rw [if_pos rfl]
      exact ⟨fun hn => absurd (hw.symm.trans hn) (by decide), hc⟩
    · rw [if_neg hk]
      exact ⟨fun _ => rfl, fun _ => rfl⟩
  | forget j =>
    rw [State.bank_respond, State.bank_forgetBank]
    refine ⟨fun hn => if_neg ?_, nofun⟩
    rintro rfl
    simp [writesBank] at hn
  | newPacket j n =>
    refine ⟨fun hn => ?_, nofun⟩
    cases k with
    | transmit => cases hn
    | working | receive => rfl
  | split =>
    rw [State.bank_respond]
    refine ⟨fun hn => unmarshalPacket_bank s k ?_, nofun⟩
    rintro rfl
    cases hn
  | sent a _ dest =>
    rw [sendTo_bank]
    exact ⟨fun _ => rfl, fun _ => rfl⟩
  | register r v _ u c hu =>
    rw [State.bank_respond, writeReg_bank hu]
    exact ⟨fun _ => rfl, fun _ => rfl⟩
  | answer | name | header | packet | opened | wait | closed | closedPending | store =>
    cases k <;> simp [State.bank]

/-! ### The endpoint registers (R36) -/

/-- The three registers R36 names hold the same in two states. -/
def SameEndpoint (s t : State) : Prop :=
  t.epOpen = s.epOpen ∧ t.epHasRemote = s.epHasRemote ∧ t.epRemote = s.epRemote

theorem sendTo_sameEndpoint (dest : Word) (s : State) : SameEndpoint s (sendTo dest s) := by
  obtain ⟨st, v, e, -⟩ := sendTo_effect dest s
  rw [e]
  exact ⟨rfl, rfl, rfl⟩

theorem unmarshalPacket_sameEndpoint (s : State) : SameEndpoint s (unmarshalPacket s).2 := by
  obtain ⟨st, v, e, -⟩ | ⟨v, h, len, bs, e, -, -⟩ := unmarshalPacket_effect s <;> rw [e] <;> exact ⟨rfl, rfl, rfl⟩

theorem writeReg_sameEndpoint {s t : State} {c : CReg} {v : Word} (h : s.writeReg c v = some t) : SameEndpoint s t := by
  obtain ⟨-, rfl⟩ | ⟨-, rfl⟩ | ⟨-, rfl⟩ | ⟨-, -, rfl⟩ := writeReg_effect s t c v h <;> exact ⟨rfl, rfl, rfl⟩

theorem netDeliver_sameEndpoint (bytes : List Byte) (src : Word) (s : State) : SameEndpoint s (netDeliver bytes src s) := by
  obtain ⟨bs, len, st, v, ra, rv, d, -, -, -, ⟨pv, e⟩ | ⟨h, pl, p, -, -, e⟩⟩ := netDeliver_effect bytes src s <;> rw [e] <;>
    exact ⟨rfl, rfl, rfl⟩

/-- Every command but `EPOPEN` and `CLOSE` leaves the endpoint registers. -/
theorem CommandEffect.sameEndpoint {i : Instr} {s t : State} (h : CommandEffect i s t) (hopen : ∀ r, i ≠ .epopen r)
    (hclose : i ≠ .close) : SameEndpoint s t := by
  cases h with
  | opened r => exact absurd rfl (hopen r)
  | closed | closedPending => exact absurd rfl hclose
  | split => exact unmarshalPacket_sameEndpoint s
  | sent a _ dest => exact sendTo_sameEndpoint dest s
  | register r v _ u c hu => exact writeReg_sameEndpoint (t := u) hu
  | answer | writeBank | forget | name | header | newPacket | packet | wait | store => simp [SameEndpoint]

/-- Settles O40: a command but the two is a case of its effect; the network events are `netDeliver` and `rxFail`. -/
theorem onlyEpopenAndCloseMoveTheEndpoint : Obligations.OnlyEpopenAndCloseMoveTheEndpoint := by
  intro s t h hother
  obtain ⟨-, rfl⟩ | ⟨w, env, rest, i, hin, hd, he⟩ | ⟨w, env, rest, e, -, -, rfl⟩ | ⟨bytes, src, rest, -, -, rfl⟩ |
    ⟨closed, rest, -, -, rfl⟩ := step_cases s t h
  · exact ⟨rfl, rfl, rfl⟩
  · have hne := fun r => hother w env rest r hin
    rw [hd] at hne
    exact (CommandEffect.of_exec he).sameEndpoint (fun r hi => (hne r).1 (congrArg _ hi)) fun hi => (hne none).2 (congrArg _ hi)
  · exact ⟨rfl, rfl, rfl⟩
  · exact netDeliver_sameEndpoint bytes src { s with inputs := rest }
  · exact ⟨rfl, rfl, rfl⟩

/-! ### What a step runs, and what reset reads as (R44, R45, R106) -/

/-- A word that decodes runs as its command (R106). -/
theorem runWord_of_decode {w : Cmd} {i : Instr} (h : decode w = .ok i) (s : State) : runWord w s = exec i s := by
  rw [runWord, h]

/-- The step of a command input is the run of its word (R44). -/
theorem step_of_nextCommand {s : State} {w : Cmd} {env : Env} {rest : List Input} (h : NextCommand s w env rest) :
    step s = runWord w { s with inputs := rest, env := env } := by
  rw [step, show s.inputs = _ from h]
  rfl

/-- Settles O4: the step runs the word, and the word runs as the command it decodes to. -/
theorem stepRunsTheDecodedCommand : Obligations.StepRunsTheDecodedCommand := by
  intro s w env rest i hnext hdec
  rw [step_of_nextCommand hnext, runWord_of_decode hdec]

/-- The fourteen numbers 0 to 0x0D each name a control register (R40). -/
theorem cregOf_isSome : ∀ r : Byte, r.toNat ≤ 0x0D → (cregOf r).isSome = true := by decide

theorem execCrd_of_cregOf {r : Byte} {c : CReg} (h : cregOf r = some c) (s : State) :
    exec (.crd r) s = .next (s.respond .ok (s.readReg c)) := by
  rw [exec, execCrd, h]

theorem readReg_reset (c : CReg) : State.reset.readReg c = 0 := by cases c <;> rfl

theorem field_zero (f : Field) : Header.zero.field f = 0 := by
  cases f with
  | name i => simp [Header.field, Header.zero]
  | _ => rfl

theorem bank_reset (k : Bank) : State.reset.bank k = Header.zero := by cases k <;> rfl

theorem space_reset (p : Space) : State.reset.space p = [] := by cases p <;> rfl

/-- Settles O47: every register, every bank and every space of the reset state is zero or empty. -/
theorem resetReadsAsZero : Obligations.ResetReadsAsZero := by
  refine ⟨fun r hr => ?_, fun k f => ?_, fun p a => ?_⟩
  · obtain ⟨c, hc⟩ := Option.isSome_iff_exists.mp (cregOf_isSome r hr)
    rw [execCrd_of_cregOf hc, readReg_reset]
  · rw [exec, execHrd, bank_reset, field_zero]
  · rw [space_reset, Memory.read_nil]

end Sys2Proof.Machine
end

section
/-! The statements of the spec's memory chapter: what a read leaves alone (R67), which commands write a byte space (R62, R63), the
transmit packet's header by value and payload by reference (R69), a second `CLOSE` (R67, R195), and where a step can stop (R72). -/

namespace Sys2Proof.Machine

/-! ### The commands, an equation a case -/

theorem execClose_of_closed {s : State} (h : s.epOpen = false) : exec .close s = .next (s.respond .ok 0) := by
  simp only [exec, execClose, if_pos h]

/-- After `CLOSE` the endpoint is closed, whatever it was before (R195). -/
theorem execClose_closes (s : State) : ∃ t, exec .close s = .next t ∧ t.epOpen = false := by
  by_cases h : s.epOpen = false
  · exact ⟨_, execClose_of_closed h, h⟩
  · simp only [exec, execClose, if_neg h]
    cases s.epRxPending <;> exact ⟨_, rfl, rfl⟩

theorem execPnew_of_le (k : Bank) {n : Half} (h : n.toNat ≤ 1436) (s : State) :
    exec (.pnew k n) s =
      .next ({ s with h1 := s.bank k, tpktLen := n.setWidth 12, tpktValid := true }.respond .ok 0) :=
  congrArg Host.Outcome.next (if_neg (not_lt.mpr h))

theorem execHwr_of_fits (k : Bank) {f : Field} {v : Word} (h : f.fits v = true) (s : State) :
    exec (.hwr k f v) s = .next ((s.setBank k ((s.bank k).setField f v)).respond .ok 0) := by
  simp only [exec, execHwr, if_pos h]

theorem execStb_of_mayWrite {n : Byte} {p : Space} {i : Half} {s : State} (hp : spaceOf n = some p)
    (hw : s.hostMayWrite p = true) (hi : i.toNat < p.capacity) (v : Byte) :
    exec (.stb n i v) s = .next ((s.setSpace p (Memory.write (s.space p) i.toNat [v])).respond .ok 0) := by
  simp only [exec, execStb, hp, if_pos (And.intro hw hi)]

/-- Settles O35: the first `CLOSE` leaves the endpoint closed, and `CLOSE` on a closed endpoint is a response alone. -/
theorem secondCloseIsANoOp : Obligations.SecondCloseIsANoOp := by
  intro s
  obtain ⟨t, ht, hclosed⟩ := execClose_closes s
  exact ⟨t, ht, execClose_of_closed hclosed⟩

/-! ### A step goes on unless a disabled event is next (R72, R256) -/

theorem unmarshalPacket_cfg (s : State) : (unmarshalPacket s).2.cfg = s.cfg := by
  obtain ⟨st, v, e, -⟩ | ⟨v, h, len, bs, e, -, -⟩ := unmarshalPacket_effect s <;> rw [e]

theorem sendTo_cfg (dest : Word) (s : State) : (sendTo dest s).cfg = s.cfg := by
  obtain ⟨st, v, e, -⟩ := sendTo_effect dest s
  rw [e, State.respond_cfg, State.offer_cfg, State.compose_cfg]

theorem writeReg_cfg {s t : State} {c : CReg} {v : Word} (h : s.writeReg c v = some t) : t.cfg = s.cfg := by
  obtain ⟨-, rfl⟩ | ⟨-, rfl⟩ | ⟨-, rfl⟩ | ⟨-, -, rfl⟩ := writeReg_effect s t c v h <;> rfl

theorem netDeliver_cfg (bytes : List Byte) (src : Word) (s : State) : (netDeliver bytes src s).cfg = s.cfg := by
  obtain ⟨bs, len, st, v, ra, rv, d, -, -, -, ⟨pv, e⟩ | ⟨h, pl, p, -, -, e⟩⟩ := netDeliver_effect bytes src s <;> rw [e]

/-- No command writes the open parameters (R43, R136). -/
theorem CommandEffect.cfg {i : Instr} {s t : State} (h : CommandEffect i s t) : t.cfg = s.cfg := by
  cases h with
  | split => exact unmarshalPacket_cfg s
  | sent a _ dest => exact sendTo_cfg dest s
  | register r v _ u c hu => exact writeReg_cfg (t := u) hu
  | answer | writeBank | forget | name | header | newPacket | packet | opened | wait | closed | closedPending | store => simp

/-- A command word always goes on, decoded or refused (R106, R256). -/
theorem runWord_goes_on (w : Cmd) (s : State) : ∃ t, runWord w s = .next t ∧ t.cfg = s.cfg := by
  rw [runWord]
  cases decode w with
  | ok i =>
    obtain ⟨t, ht, he⟩ := exec_effect i s
    exact ⟨t, ht, he.cfg⟩
  | error _ => exact ⟨_, rfl, rfl⟩

/-- Settles O52: a case analysis on the next input; only a network event with no receive pending has no next state. -/
theorem stepStopsOnlyOnADisabledEvent : Obligations.StepStopsOnlyOnADisabledEvent := by
  intro s
  cases hin : s.inputs with
  | nil => exact .inl ⟨s, by rw [step, hin], rfl⟩
  | cons i rest =>
    have hstep : step s = takeInput i { s with inputs := rest } := by rw [step, hin]
    rw [hstep]
    cases i with
    | command w env => exact .inl (runWord_goes_on w { s with inputs := rest, env := env })
    | deliver bytes src =>
      by_cases hp : s.epRxPending = true
      · exact .inl ⟨_, if_pos hp, netDeliver_cfg bytes src _⟩
      · exact .inr ⟨Bool.eq_false_iff.mpr hp, if_neg hp, rest, .inl ⟨bytes, src, rfl⟩⟩
    | readError closed =>
      by_cases hp : s.epRxPending = true
      · exact .inl ⟨_, if_pos hp, rfl⟩
      · exact .inr ⟨Bool.eq_false_iff.mpr hp, if_neg hp, rest, .inr ⟨closed, rfl⟩⟩

/-! ### Reads (R67) -/

/-- A write leaves the entries below its window. -/
theorem Memory.filter_below_write (m : Memory) (a : Nat) (bs : List Byte) :
    (Memory.write m a bs).filter (fun c => decide (c.1 < a)) = m.filter fun c => decide (c.1 < a) := by
  have hmid : (Memory.place a bs).filter (fun c => decide (c.1 < a)) = [] := by
    refine List.filter_eq_nil_iff.mpr fun c hc => ?_
    obtain ⟨hlo, -, -⟩ := Memory.place_bounds a bs c hc
    simpa using hlo
  have hhigh : (m.filter fun c => decide (a + bs.length ≤ c.1)).filter (fun c => decide (c.1 < a)) = [] := by
    refine List.filter_eq_nil_iff.mpr fun c hc => ?_
    have := of_decide_eq_true (List.mem_filter.mp hc).2
    simp only [decide_eq_true_eq]
    omega
  rw [Memory.write, List.filter_append, List.filter_append, hmid, hhigh, List.append_nil, List.append_nil, List.filter_filter]
  simp only [Bool.and_self]

/-- A write leaves the entries above its window. -/
theorem Memory.filter_above_write (m : Memory) (a : Nat) (bs : List Byte) :
    (Memory.write m a bs).filter (fun c => decide (a + bs.length ≤ c.1)) = m.filter fun c => decide (a + bs.length ≤ c.1) := by
  have hlow : (m.filter fun c => decide (c.1 < a)).filter (fun c => decide (a + bs.length ≤ c.1)) = [] := by
    refine List.filter_eq_nil_iff.mpr fun c hc => ?_
    have := of_decide_eq_true (List.mem_filter.mp hc).2
    simp only [decide_eq_true_eq]
    omega
  have hmid : (Memory.place a bs).filter (fun c => decide (a + bs.length ≤ c.1)) = [] := by
    refine List.filter_eq_nil_iff.mpr fun c hc => ?_
    obtain ⟨-, hhi, -⟩ := Memory.place_bounds a bs c hc
    simpa using hhi
  rw [Memory.write, List.filter_append, List.filter_append, hlow, hmid, List.nil_append, List.nil_append, List.filter_filter]
  simp only [Bool.and_self]

/-- Of two writes to one window the second alone remains. -/
theorem Memory.write_write (m : Memory) (a : Nat) {bs cs : List Byte} (h : bs.length = cs.length) :
    Memory.write (Memory.write m a bs) a cs = Memory.write m a cs := by
  rw [Memory.write, ← h, Memory.filter_below_write, Memory.filter_above_write, Memory.write, h]

/-- The name result of `GETNAME` placed in `NRES` (R31, R152). -/
def State.putName (s : State) (name : List Byte) : State :=
  { s with nres := Memory.write s.nres 0 (nameSet name).toList, nresLen := BitVec.ofNat 5 name.length }

theorem execGetname_eq (k : Bank) (s : State) :
    exec (.getname k) s =
      .next ((s.putName (nameGet (s.bank k).streamName)).respond .ok
        (BitVec.ofNat 32 (nameGet (s.bank k).streamName).length)) := rfl

@[simp] theorem State.bank_putName (s : State) (name : List Byte) (k : Bank) : (s.putName name).bank k = s.bank k := by
  cases k <;> rfl

@[simp] theorem State.putName_respond (s : State) (st : Status) (v : Word) (name : List Byte) :
    (s.respond st v).putName name = (s.putName name).respond st v := rfl

@[simp] theorem State.putName_putName (s : State) (name : List Byte) : (s.putName name).putName name = s.putName name := by
  simp [State.putName, Memory.write_write]

theorem execCrd_answers (r : Byte) (s : State) : ∃ st v, exec (.crd r) s = .next (s.respond st v) := by
  simp only [exec, execCrd]
  split <;> exact ⟨_, _, rfl⟩

theorem execLdb_answers (n : Byte) (i : Half) (s : State) : ∃ st v, exec (.ldb n i) s = .next (s.respond st v) := by
  simp only [exec, execLdb]
  split
  · split_ifs <;> exact ⟨_, _, rfl⟩
  · exact ⟨_, _, rfl⟩

/-- A read is a response and nothing else (R67). -/
theorem exec_of_isPureRead {i : Instr} (h : isPureRead i = true) (s : State) : ∃ st v, exec i s = .next (s.respond st v) := by
  cases i with
  | crd r => exact execCrd_answers r s
  | ldb n i => exact execLdb_answers n i s
  | getsp | isaudio | isserial | istext | isservice | getsr | getrate | getdt | dtsize | getcodec | getspf | getch | hrd =>
    exact ⟨_, _, rfl⟩
  | _ => simp [isPureRead, isFieldModel] at h

/-- Settles O56: a read is a response alone; `GETNAME` writes no bank, so repeated it finds the same name and puts it where it
already stands. -/
theorem readsChangeNothing : Obligations.ReadsChangeNothing := by
  refine ⟨fun i s h => exec_of_isPureRead h s, fun k s => ⟨_, _, execGetname_eq k s, rfl, ?_⟩⟩
  rw [execGetname_eq]
  simp only [State.bank_respond, State.bank_putName, State.putName_respond, State.putName_putName]

/-! ### The writers of a byte space (R62, R63) -/

theorem State.space_compose (s : State) (bs : List Byte) {p : Space} (h : p ≠ .txbuf) : (s.compose bs).space p = s.space p := by
  cases p with
  | txbuf => exact absurd rfl h
  | nbuf | nres | tpmem | rpmem | rxbuf => rfl

theorem State.space_rxFail (s : State) (st : Status) {p : Space} (h : p ≠ .rxbuf) : (s.rxFail st).space p = s.space p := by
  cases p with
  | rxbuf => exact absurd rfl h
  | nbuf | nres | tpmem | rpmem | txbuf => rfl

theorem sendTo_space (dest : Word) (s : State) {p : Space} (h : p ≠ .txbuf) : (sendTo dest s).space p = s.space p := by
  obtain ⟨st, v, e, -⟩ := sendTo_effect dest s
  rw [e, State.space_respond, State.space_offer, State.space_compose s _ h]

/-- Decoding the receive buffer writes no space but `RPMEM` (R183). -/
theorem unmarshalPacket_space (s : State) {p : Space} (h : p ≠ .rpmem) : (unmarshalPacket s).2.space p = s.space p := by
  obtain ⟨st, v, e, -⟩ | ⟨v, g, len, bs, e, -, -⟩ := unmarshalPacket_effect s <;> rw [e]
  · cases p <;> rfl
  · cases p with
    | rpmem => exact absurd rfl h
    | nbuf | nres | tpmem | txbuf | rxbuf => rfl

theorem writeReg_space {s t : State} {c : CReg} {v : Word} (h : s.writeReg c v = some t) (p : Space) : t.space p = s.space p := by
  obtain ⟨-, rfl⟩ | ⟨-, rfl⟩ | ⟨-, rfl⟩ | ⟨-, -, rfl⟩ := writeReg_effect s t c v h <;> cases p <;> rfl

/-- The space a host store writes is one `writesSpace` names it for (R213). -/
theorem writesSpace_stb {s : State} {n : Byte} {p : Space} (hp : spaceOf n = some p) (hw : s.hostMayWrite p = true) (i : Half)
    (v : Byte) : writesSpace p (.stb n i v) = true := by
  obtain ⟨rfl, hn⟩ | ⟨rfl, hn⟩ | ⟨rfl, hn, -⟩ := hostMayWrite_effect s n p hp hw <;> simp [writesSpace, storesInto, hn]

/-- Settles O57: a case analysis on the command's effect; the space each effect writes names the command as its writer. -/
theorem onlyNamedCommandsWriteASpace : Obligations.OnlyNamedCommandsWriteASpace := by
  intro i s t p h hn
  cases CommandEffect.of_exec h with
  | name =>
    cases p with
    | nres => cases hn
    | nbuf | tpmem | rpmem | txbuf | rxbuf => rfl
  | header => exact State.space_compose s _ (by rintro rfl; cases hn)
  | packet => exact State.space_compose s _ (by rintro rfl; cases hn)
  | sent a _ dest => exact sendTo_space dest s (by rintro rfl; cases hn)
  | split => exact unmarshalPacket_space s (by rintro rfl; cases hn)
  | closedPending =>
    have hp : p ≠ .rxbuf := by rintro rfl; cases hn
    rw [State.space_respond, State.space_rxFail _ _ hp]
    cases p <;> rfl
  | register r v _ u c hu => rw [State.space_respond, writeReg_space hu]
  | store n i v _ q hq hw hi =>
    rw [State.space_respond, State.space_setSpace, if_neg]
    rintro rfl
    exact absurd ((writesSpace_stb hq hw i v).symm.trans hn) (by decide)
  | answer | writeBank | forget => simp
  | newPacket | opened | wait | closed => cases p <;> rfl

/-! ### The wire image of a header (R90, R91) -/

theorem getD_le32 (v : Word) {i : Nat} (h : i < 4) : (le32 v).getD i 0 = v.extractLsb' (8 * i) 8 := by
  interval_cases i <;> rfl

/-- Byte by byte the encoder gives the wire table. -/
theorem getD_encHeader (h : Header) {i : Nat} (hi : i < 28) : (encHeader h).getD i 0 = h.wireByte i := by
  have hname : h.streamName.toList.length = 16 := by simp
  rw [encHeader, List.append_assoc]
  by_cases h8 : i < 8
  · rw [List.getD_append _ _ _ _ (by simpa using h8)]
    interval_cases i <;> rfl
  rw [List.getD_append_right _ _ _ _ (by simpa using h8), Header.wireByte, if_neg (by omega), if_neg (by omega),
    if_neg (by omega), if_neg (by omega), if_neg (by omega)]
  simp only [List.length_append, length_le32, List.length_cons, List.length_nil]
  by_cases h24 : i < 24
  · rw [List.getD_append _ _ _ _ (by omega), if_pos h24]
  · rw [List.getD_append_right _ _ _ _ (by omega), hname, getD_le32 _ (by omega), if_neg h24, if_pos hi, Nat.sub_sub]

/-! ### The flat bytes of the transmit packet (R69, R103, R259) -/

/-- The packet's flat bytes are the wire image of `H[1]`, then `TPMEM` (R103). -/
theorem State.getD_flatPacket (s : State) {i : Nat} (h : i < 28 + s.tpktLen.toNat) :
    s.flatPacket.getD i 0 = if i < 28 then s.h1.wireByte i else Memory.read s.tpmem (i - 28) := by
  rw [State.flatPacket, encPacket]
  split_ifs with hi
  · rw [List.getD_append _ _ _ _ (by simpa using hi), getD_encHeader s.h1 hi]
  · rw [List.getD_append_right _ _ _ _ (by simpa using hi), length_encHeader, State.payload,
      Memory.getD_readBytes _ _ _ _ (by omega), Nat.zero_add]

@[simp] theorem State.flatPacket_respond (s : State) (st : Status) (v : Word) : (s.respond st v).flatPacket = s.flatPacket := rfl

/-- The header of the packet is `H[1]` alone: a write of another bank is not seen. -/
theorem State.flatPacket_setBank (s : State) {k : Bank} (h : Header) (hk : k ≠ .transmit) :
    (s.setBank k h).flatPacket = s.flatPacket := by
  cases k with
  | transmit => exact absurd rfl hk
  | working | receive => rfl

/-- A byte written shows in the string read from address 0 at its own place and nowhere else. -/
theorem Memory.readBytes_write_byte (m : Memory) (i n : Nat) (v : Byte) :
    Memory.readBytes (Memory.write m i [v]) 0 n = (Memory.readBytes m 0 n).set i v := by
  apply List.ext_getElem
  · simp
  · intro j h1 h2
    simp only [Memory.readBytes, List.getElem_map, List.getElem_range, List.getElem_set, Memory.read_write]
    by_cases hj : i = j
    · subst hj
      simp
    · rw [if_neg (by simp; omega), if_neg hj]

/-- The payload of the packet is `TPMEM` itself: a byte written there is seen. -/
theorem State.flatPacket_write_tpmem (s : State) (i : Nat) (v : Byte) :
    (s.setSpace .tpmem (Memory.write (s.space .tpmem) i [v])).flatPacket = s.flatPacket.set (28 + i) v := by
  rw [State.flatPacket, State.flatPacket, encPacket, encPacket, List.set_append_right _ _ (by simp), length_encHeader,
    Nat.add_sub_cancel_left]
  exact congrArg (encHeader s.h1 ++ ·) (Memory.readBytes_write_byte s.tpmem i _ v)

/-- Settles O30: the flat bytes are read from `H[1]`, the copy `PNEW` makes of the bank, and from `TPMEM` as it stands, so a write
of another bank leaves them and a store in the payload shows. -/
theorem headerByValuePayloadByReference : Obligations.HeaderByValuePayloadByReference := by
  intro s k n hn
  have hlen : (n.setWidth 12).toNat = n.toNat := by rw [BitVec.toNat_setWidth]; omega
  refine ⟨_, execPnew_of_le k hn s, rfl, ?_, fun i hi => ?_, fun j f v hj hf => ⟨?_, ?_⟩, fun i v hi => ?_⟩
  · rw [State.length_flatPacket]
    exact congrArg (28 + ·) hlen
  · rw [State.flatPacket_respond, State.getD_flatPacket _ (hi.trans_eq (congrArg (28 + ·) hlen.symm))]
  · exact ⟨_, execHwr_of_fits j hf _, State.flatPacket_setBank _ _ hj⟩
  · refine ⟨_, execHwr_of_fits .transmit hf _, ?_⟩
    rw [State.bank_respond, State.bank_setBank, if_neg hj]
    cases j with
    | transmit => exact absurd rfl hj
    | working | receive => rfl
  · have hcap : i.toNat < Space.tpmem.capacity := show i.toNat < 2048 by omega
    refine ⟨_, execStb_of_mayWrite (by rfl) rfl hcap v, ?_⟩
    rw [State.flatPacket_respond, State.flatPacket_write_tpmem]

end Sys2Proof.Machine
end

section
/-! The statements of the spec's encoding chapter: the round trips of the command word (R105 to R110), the words the opcode map
defines and the refusal of the others (R106), counts and header fields that read back as written (R100, R108), the header's wire
image (R93), and the one response of every command (R112). -/

namespace Sys2Proof

/-! ### Encoding, then decoding (R105, R110) -/

/-- The four slots of a command's word. -/
def Instr.slots (i : Instr) : Slots :=
  { op := i.opcode.code, a := i.operandSlots.1, b := i.operandSlots.2.1, d := i.operandSlots.2.2 }

theorem encode_eq_toWord_slots (i : Instr) : encode i = i.slots.toWord := rfl

@[simp] theorem ofWord_encode (i : Instr) : Slots.ofWord (encode i) = i.slots := Slots.ofWord_toWord _

theorem decode_of_code {w : Cmd} {o : Opcode} (h : (Slots.ofWord w).op = o.code) :
    decode w = decodeOperands o (Slots.ofWord w) := by
  simp only [decode, h, Opcode.ofCode_code]

theorem decodeField_selector (f : Field) (mk : Field → Except DecodeError Instr) : decodeField f.selector mk = mk f := by
  rw [decodeField, Field.ofSelector_selector]

theorem decodeAddress_addressValid (op : Byte) (r : Option Word) (mk : Option Word → Instr) :
    decodeAddress { op := op, a := addressValid r, b := 0, d := r.getD 0 } mk = .ok (mk r) := by
  cases r <;> simp [decodeAddress, addressValid]

/-- The operand decoder of a command's own operation gives the command back from its slots. -/
theorem decodeOperands_slots (i : Instr) (h : i.wf = true) : decodeOperands i.opcode i.slots = .ok i := by
  cases i with
  | getsp | isaudio | isserial | istext | isservice | getsr | getdt | crd => rfl
  | pmarshal | punmarshal | recv | close | cwr | ldb => rfl
  | epopen r | send r => exact decodeAddress_addressValid _ r _
  | setname k | getname k | getspf k | getch k | hmarshal k | hunmarshal k | setspf k | setch k | pnew k =>
    exact decodeBank_bankSlot k _ rfl _
  | setafmt k idx dt rsv codec =>
    obtain ⟨hidx, hmbz, hdt, hrsv, hcodec⟩ := afmtSlot_fields idx dt rsv codec
    simp [Instr.opcode, Instr.slots, Instr.operandSlots, decodeOperands, decodeBank_bankSlot, hidx, hmbz, hdt, hrsv, hcodec]
  | hwr k f v =>
    have hfits : f.fits v = true := h
    simp [Instr.opcode, Instr.slots, Instr.operandSlots, decodeOperands, decodeBank_bankSlot, decodeField_selector,
      selSlot_low, selSlot_high, hfits]
  | getrate | dtsize | getcodec | hnew | hrd | stb =>
    simp [Instr.opcode, Instr.slots, Instr.operandSlots, decodeOperands, decodeBank_bankSlot, decodeField_selector, tagSlot_low,
      tagSlot_tag, idxSlot_idx, idxSlot_high, dtSlot_dt, dtSlot_high, spSlot_low, spSlot_tag, spSlot_high, selSlot_low,
      selSlot_high, byteSlot_low, byteSlot_high]

/-- Settles O2: the encoded word has the command's slots, and the operand decoder reads the command back from them. -/
theorem decodeUndoesEncode : Obligations.DecodeUndoesEncode := by
  intro i hwf
  rw [decode_of_code (congrArg Slots.op (ofWord_encode i)), ofWord_encode, decodeOperands_slots i hwf]

/-! ### Decoding, then encoding (R106, R110) -/

/-- A guarded operand form that decodes had its guard met. -/
theorem guard_ok {c : Prop} [Decidable c] {e : DecodeError} {i j : Instr}
    (h : (if c then .ok j else .error e : Except DecodeError Instr) = .ok i) : c ∧ j = i := by
  split_ifs at h with hc
  cases h
  exact ⟨hc, rfl⟩

/-- What a decoded command is: it belongs to the operation, its slots are the ones it was read from, and it is well-formed. -/
theorem decodeOperands_ok {o : Opcode} {s : Slots} {i : Instr} (h : decodeOperands o s = .ok i) :
    i.opcode = o ∧ i.operandSlots = (s.a, s.b, s.d) ∧ i.wf = true := by
  cases o with
  | getsp | isaudio | isserial | istext | isservice | getsr | getdt | crd =>
    obtain ⟨⟨hb, hd⟩, rfl⟩ := guard_ok h
    exact ⟨rfl, by rw [hb, hd]; rfl, rfl⟩
  | pmarshal | punmarshal | recv | close =>
    obtain ⟨⟨ha, hb, hd⟩, rfl⟩ := guard_ok h
    exact ⟨rfl, by rw [ha, hb, hd]; rfl, rfl⟩
  | getrate =>
    obtain ⟨⟨ha, hb, hd⟩, rfl⟩ := guard_ok h
    exact ⟨rfl, by rw [Instr.operandSlots, tagSlot_of _ ha, idxSlot_of _ hb, hd], rfl⟩
  | dtsize =>
    obtain ⟨⟨ha, hb, hd⟩, rfl⟩ := guard_ok h
    exact ⟨rfl, by rw [Instr.operandSlots, dtSlot_of _ ha, hb, hd], rfl⟩
  | getcodec =>
    obtain ⟨⟨hlow, hhigh, hd⟩, rfl⟩ := guard_ok h
    exact ⟨rfl, by rw [Instr.operandSlots, spSlot_of _ hlow hhigh, hd], rfl⟩
  | cwr | ldb =>
    obtain ⟨hc, rfl⟩ := guard_ok h
    exact ⟨rfl, by rw [hc]; rfl, rfl⟩
  | stb =>
    obtain ⟨hc, rfl⟩ := guard_ok h
    exact ⟨rfl, by rw [Instr.operandSlots, byteSlot_of _ hc], rfl⟩
  | epopen | send =>
    obtain ⟨r, ha, hb, hd, rfl⟩ := decodeAddress_ok h
    exact ⟨rfl, by rw [ha, hb, hd]; rfl, rfl⟩
  | setname | getname | getspf | getch | hmarshal | hunmarshal =>
    obtain ⟨k, ha, hc, hk⟩ := decodeBank_ok h
    obtain ⟨hb, hd⟩ := of_decide_eq_true hc
    cases hk
    exact ⟨rfl, by rw [ha, hb, hd]; rfl, rfl⟩
  | setspf | setch | pnew =>
    obtain ⟨k, ha, hc, hk⟩ := decodeBank_ok h
    cases hk
    exact ⟨rfl, by rw [ha, of_decide_eq_true hc]; rfl, rfl⟩
  | hnew =>
    obtain ⟨k, ha, hc, hk⟩ := decodeBank_ok h
    obtain ⟨hlow, hhigh, hd⟩ := of_decide_eq_true hc
    cases hk
    exact ⟨rfl, by rw [ha, hd, Instr.operandSlots, spSlot_of _ hlow hhigh], rfl⟩
  | setafmt =>
    obtain ⟨k, ha, hc, hk⟩ := decodeBank_ok h
    obtain ⟨hmbz, hd⟩ := of_decide_eq_true hc
    cases hk
    exact ⟨rfl, by rw [ha, hd, Instr.operandSlots, afmtSlot_of _ hmbz], rfl⟩
  | hrd =>
    obtain ⟨k, ha, hc, hk⟩ := decodeBank_ok h
    obtain ⟨hhigh, hd⟩ := of_decide_eq_true hc
    obtain ⟨f, hf, hi⟩ := decodeField_ok hk
    cases hi
    exact ⟨rfl, by rw [ha, hd, Instr.operandSlots, ← hf, selSlot_of _ hhigh], rfl⟩
  | hwr =>
    obtain ⟨k, ha, hc, hk⟩ := decodeBank_ok h
    obtain ⟨f, hf, hi⟩ := decodeField_ok hk
    obtain ⟨hfits, rfl⟩ := guard_ok hi
    exact ⟨rfl, by rw [ha, Instr.operandSlots, ← hf, selSlot_of _ (of_decide_eq_true hc)], hfits⟩

/-- A word that decodes has one of the 33 opcodes, and its operand slots decode (R106 step 1). -/
theorem decode_ok {w : Cmd} {i : Instr} (h : decode w = .ok i) :
    ∃ o, (Slots.ofWord w).op = o.code ∧ decodeOperands o (Slots.ofWord w) = .ok i := by
  simp only [decode] at h
  split at h
  · exact ⟨_, Opcode.code_of_ofCode _ _ ‹_›, h⟩
  · cases h

/-- Settles O3: the decoded command's opcode and operand slots are the word's, and a word is the composition of its slots. -/
theorem encodeUndoesDecode : Obligations.EncodeUndoesDecode := by
  intro w i h
  obtain ⟨o, hop, ho⟩ := decode_ok h
  obtain ⟨rfl, hslots, hwf⟩ := decodeOperands_ok ho
  have hs : i.slots = Slots.ofWord w := by rw [Instr.slots, hslots, ← hop]
  exact ⟨by rw [encode_eq_toWord_slots, hs, Slots.toWord_ofWord], hwf⟩

/-! ### The defined words (R106, R110) -/

theorem extractLsb'_extractLsb' {n : Nat} (x : BitVec n) {lo m start len : Nat} (h : start + len ≤ m) :
    (x.extractLsb' lo m).extractLsb' start len = x.extractLsb' (lo + start) len := by
  apply BitVec.eq_of_getElem_eq
  intro i hi
  simp [Nat.add_assoc, show start + i < m by omega]

/-- The conditions of R106 step 3 and R110 that a mask cannot express, said of the operand slots. -/
def OperandsInDomain (o : Opcode) (s : Slots) : Prop :=
  (o ∈ Machine.takesBank → s.a.extractLsb' 0 2 ≠ 3) ∧
  (o = .hrd ∨ o = .hwr →
    (s.b.extractLsb' 0 8).toNat < 6 ∨ (16 ≤ (s.b.extractLsb' 0 8).toNat ∧ (s.b.extractLsb' 0 8).toNat < 32)) ∧
  (o = .hwr → (s.b.extractLsb' 0 8).toNat ≠ 0 → (s.b.extractLsb' 0 8).toNat ≠ 5 → s.d.extractLsb' 8 24 = 0) ∧
  (o = .epopen ∨ o = .send → s.a.extractLsb' 0 1 = 0 → s.d = 0)

theorem definedWord_iff (w : Cmd) :
    Machine.DefinedWord w ↔ ∃ o : Opcode, w &&& o.mask = o.matchWord ∧ OperandsInDomain o (Slots.ofWord w) := by
  simp only [Machine.DefinedWord, OperandsInDomain, Slots.ofWord, extractLsb'_extractLsb' w (by decide : 0 + 2 ≤ 8),
    extractLsb'_extractLsb' w (by decide : 0 + 8 ≤ 16), extractLsb'_extractLsb' w (by decide : 8 + 24 ≤ 32),
    extractLsb'_extractLsb' w (by decide : 0 + 1 ≤ 8)]

/-- A word that matches a row has the row's opcode, and its operand bits under the row's mask are zero (R110). -/
theorem slots_of_selects {w : Cmd} {o : Opcode} (h : w &&& o.mask = o.matchWord) :
    (Slots.ofWord w).op = o.code ∧ (Slots.ofWord w).a &&& (Slots.ofWord o.mask).a = 0 ∧
      (Slots.ofWord w).b &&& (Slots.ofWord o.mask).b = 0 ∧ (Slots.ofWord w).d &&& (Slots.ofWord o.mask).d = 0 := by
  have hop : (Slots.ofWord o.mask).op = BitVec.allOnes 8 := by cases o <;> decide
  rw [← Slots.toWord_ofWord w, ← Slots.toWord_ofWord o.mask, Laws.and_toWord, ← Laws.toWord_code] at h
  have hs := congrArg Slots.ofWord h
  simpa only [Slots.ofWord_toWord, Slots.mk.injEq, hop, BitVec.and_allOnes] using hs

/-- Bits that the mask covers are zero where the masked slot is. -/
theorem mbz_of_and {n : Nat} {x m : BitVec n} (h : x &&& m = 0) {start len : Nat}
    (hm : m.extractLsb' start len = BitVec.allOnes len) : x.extractLsb' start len = 0 := by
  have hx := congrArg (BitVec.extractLsb' start len) h
  rw [BitVec.extractLsb'_and, hm, BitVec.and_allOnes] at hx
  simpa using hx

theorem eq_zero_of_and {n : Nat} {x m : BitVec n} (h : x &&& m = 0) (hm : m = BitVec.allOnes n) : x = 0 := by
  rw [← h, hm, BitVec.and_allOnes]

theorem exists_bankSlot {a : Byte} (h : a &&& 0xFC = 0) (hk : a.extractLsb' 0 2 ≠ 3) : ∃ k, a = bankSlot k := by
  have key : ∀ a : Byte, a &&& 0xFC = 0 → a.extractLsb' 0 2 ≠ 3 →
      a = bankSlot .working ∨ a = bankSlot .transmit ∨ a = bankSlot .receive := by decide
  obtain h | h | h := key a h hk
  exacts [⟨_, h⟩, ⟨_, h⟩, ⟨_, h⟩]

/-- The defined selectors (R108). -/
theorem exists_selector {f : Byte} (h : f.toNat < 6 ∨ (16 ≤ f.toNat ∧ f.toNat < 32)) : ∃ g : Field, f = g.selector := by
  have key : ∀ f : Byte, (f.toNat < 6 ∨ (16 ≤ f.toNat ∧ f.toNat < 32)) → (Field.ofSelector f).isSome = true := by decide
  obtain ⟨g, hg⟩ := Option.isSome_iff_exists.mp (key f h)
  exact ⟨g, Field.selector_of_ofSelector f g hg⟩

theorem selector_inDomain (f : Field) :
    f.selector.toNat < 6 ∨ (16 ≤ f.selector.toNat ∧ f.selector.toNat < 32) := by
  cases f with
  | name i => revert i; decide
  | magic | formatSr | formatNbs | formatNbc | formatBit | frameCounter => decide

theorem upperBits_eq_zero_iff (v : Word) : v.extractLsb' 8 24 = 0 ↔ v.toNat < 256 := by
  have hv := v.isLt
  rw [← BitVec.toNat_inj, BitVec.extractLsb'_toNat, Nat.shiftRight_eq_div_pow, show (0 : BitVec 24).toNat = 0 from rfl]
  omega

/-- The value slot suits the field exactly when its upper bits are zero or the selector is that of a 32-bit field (R110). -/
theorem fits_iff_upperBits (f : Field) (v : Word) :
    f.fits v = true ↔ (f.selector.toNat ≠ 0 → f.selector.toNat ≠ 5 → v.extractLsb' 8 24 = 0) := by
  rw [Machine.Field.fits_iff, upperBits_eq_zero_iff]
  cases f with
  | name i =>
    have hsel : (Field.name i).selector.toNat ≠ 0 ∧ (Field.name i).selector.toNat ≠ 5 := by revert i; decide
    simp [hsel]
  | magic | formatSr | formatNbs | formatNbc | formatBit | frameCounter => simp [Field.selector]

theorem bankSlot_ne_three (k : Bank) : (bankSlot k).extractLsb' 0 2 ≠ 3 := by cases k <;> decide

theorem selectsRow (i : Instr) : Laws.SelectsRow.Statement i := by
  open Laws.SelectsRow in
  cases i
  exacts [getsp _, isaudio _, isserial _, istext _, isservice _, getsr _, getrate _ _, getdt _, dtsize _, getcodec _ _,
    hnew _ _, setname _, getname _, getspf _, setspf _ _, getch _, setch _ _, setafmt _ _ _ _ _, hmarshal _, hunmarshal _,
    hrd _ _, hwr _ _ _, pnew _ _, pmarshal, punmarshal, epopen _, send _, recv, close, crd _, cwr _ _, ldb _ _, stb _ _ _]

/-- The operands of a well-formed command are in the domains of R106 step 3. -/
theorem operandsInDomain_slots (i : Instr) (h : i.wf = true) : OperandsInDomain i.opcode i.slots := by
  cases i with
  | hnew k | setname k | getname k | getspf k | setspf k | getch k | setch k | setafmt k | hmarshal k | hunmarshal k | pnew k =>
    exact ⟨fun _ => bankSlot_ne_three k, nofun, nofun, nofun⟩
  | hrd k f =>
    refine ⟨fun _ => bankSlot_ne_three k, fun _ => ?_, nofun, nofun⟩
    exact (selSlot_low f.selector).symm ▸ selector_inDomain f
  | hwr k f v =>
    refine ⟨fun _ => bankSlot_ne_three k, fun _ => ?_, fun _ => ?_, nofun⟩
    · exact (selSlot_low f.selector).symm ▸ selector_inDomain f
    · exact (selSlot_low f.selector).symm ▸ (fits_iff_upperBits f v).mp h
  | epopen r | send r =>
    refine ⟨fun hk => absurd hk (by simp [Machine.takesBank, Instr.opcode]), nofun, nofun, fun _ ha => ?_⟩
    cases r with
    | none => rfl
    | some d => exact absurd ha (by simp [Instr.slots, Instr.operandSlots, addressValid])
  | getsp | isaudio | isserial | istext | isservice | getsr | getrate | getdt | dtsize | getcodec | pmarshal | punmarshal | recv
  | close | crd | cwr | ldb | stb =>
    exact ⟨fun hk => absurd hk (by simp [Machine.takesBank, Instr.opcode]), nofun, nofun, nofun⟩

/-- A bank command whose `a` slot matches its row and names a bank decodes when it does for every bank (R107). -/
theorem exists_decodeBank {a : Byte} {c : Bool} {mk : Bank → Except DecodeError Instr} (ha : a &&& 0xFC = 0)
    (hk : a.extractLsb' 0 2 ≠ 3) (hc : c = true) (hmk : ∀ k, ∃ i, mk k = .ok i) : ∃ i, decodeBank a c mk = .ok i := by
  obtain ⟨k, rfl⟩ := exists_bankSlot ha hk
  rw [decodeBank_bankSlot k c hc]
  exact hmk k

theorem exists_decodeField {f : Byte} {mk : Field → Except DecodeError Instr}
    (hf : f.toNat < 6 ∨ (16 ≤ f.toNat ∧ f.toNat < 32)) (hmk : ∀ g : Field, f = g.selector → ∃ i, mk g = .ok i) :
    ∃ i, decodeField f mk = .ok i := by
  obtain ⟨g, rfl⟩ := exists_selector hf
  rw [decodeField_selector]
  exact hmk g rfl

theorem exists_decodeAddress {s : Slots} (ha : s.a.extractLsb' 1 7 = 0) (hb : s.b = 0)
    (hd : s.a.extractLsb' 0 1 = 0 → s.d = 0) (mk : Option Word → Instr) : ∃ i, decodeAddress s mk = .ok i := by
  rw [decodeAddress, if_pos ⟨ha, hb⟩]
  by_cases hvalid : s.a.extractLsb' 0 1 = 1
  · exact ⟨_, if_pos hvalid⟩
  · have hzero : ∀ x : BitVec 1, x ≠ 1 → x = 0 := by decide
    exact ⟨_, by rw [if_neg hvalid, if_pos (hd (hzero _ hvalid))]⟩

/-- Slots that match a row, with their operands in their domains, decode. -/
theorem exists_decodeOperands {w : Cmd} {o : Opcode} (h : w &&& o.mask = o.matchWord)
    (hdom : OperandsInDomain o (Slots.ofWord w)) : ∃ i, decodeOperands o (Slots.ofWord w) = .ok i := by
  obtain ⟨-, ha, hb, hd⟩ := slots_of_selects h
  obtain ⟨hbank, hsel, hwide, haddr⟩ := hdom
  generalize Slots.ofWord w = s at *
  cases o with
  | getsp | isaudio | isserial | istext | isservice | getsr | getdt | crd =>
    exact ⟨_, if_pos ⟨eq_zero_of_and hb (by decide), eq_zero_of_and hd (by decide)⟩⟩
  | pmarshal | punmarshal | recv | close =>
    exact ⟨_, if_pos ⟨eq_zero_of_and ha (by decide), eq_zero_of_and hb (by decide), eq_zero_of_and hd (by decide)⟩⟩
  | getrate =>
    exact ⟨_, if_pos ⟨mbz_of_and ha (by decide), mbz_of_and hb (by decide), eq_zero_of_and hd (by decide)⟩⟩
  | dtsize =>
    exact ⟨_, if_pos ⟨mbz_of_and ha (by decide), eq_zero_of_and hb (by decide), eq_zero_of_and hd (by decide)⟩⟩
  | getcodec =>
    exact ⟨_, if_pos ⟨mbz_of_and hb (by decide), mbz_of_and hb (by decide), eq_zero_of_and hd (by decide)⟩⟩
  | cwr => exact ⟨_, if_pos (eq_zero_of_and hb (by decide))⟩
  | ldb => exact ⟨_, if_pos (eq_zero_of_and hd (by decide))⟩
  | stb => exact ⟨_, if_pos (mbz_of_and hd (by decide))⟩
  | setname | getname | getspf | getch | hmarshal | hunmarshal =>
    exact exists_decodeBank ha (hbank (by decide))
      (decide_eq_true ⟨eq_zero_of_and hb (by decide), eq_zero_of_and hd (by decide)⟩) fun k => ⟨_, rfl⟩
  | setspf | setch | pnew =>
    exact exists_decodeBank ha (hbank (by decide)) (decide_eq_true (eq_zero_of_and hd (by decide))) fun k => ⟨_, rfl⟩
  | hnew =>
    exact exists_decodeBank ha (hbank (by decide))
      (decide_eq_true ⟨mbz_of_and hb (by decide), mbz_of_and hb (by decide), eq_zero_of_and hd (by decide)⟩)
      fun k => ⟨_, rfl⟩
  | setafmt =>
    exact exists_decodeBank ha (hbank (by decide))
      (decide_eq_true ⟨mbz_of_and hb (by decide), eq_zero_of_and hd (by decide)⟩) fun k => ⟨_, rfl⟩
  | hrd =>
    exact exists_decodeBank ha (hbank (by decide))
      (decide_eq_true ⟨mbz_of_and hb (by decide), eq_zero_of_and hd (by decide)⟩)
      fun k => exists_decodeField (hsel (.inl rfl)) fun f _ => ⟨_, rfl⟩
  | hwr =>
    refine exists_decodeBank ha (hbank (by decide)) (decide_eq_true (mbz_of_and hb (by decide)))
      fun k => exists_decodeField (hsel (.inr rfl)) fun f hf => ?_
    have hfits : f.fits s.d = true := (fits_iff_upperBits f s.d).mpr (hf ▸ hwide rfl)
    exact ⟨_, if_pos hfits⟩
  | epopen => exact exists_decodeAddress (mbz_of_and ha (by decide)) (eq_zero_of_and hb (by decide)) (haddr (.inl rfl)) _
  | send => exact exists_decodeAddress (mbz_of_and ha (by decide)) (eq_zero_of_and hb (by decide)) (haddr (.inr rfl)) _

/-- Settles O1: a command's word matches its operation's row, and slots that match a row with their operands in their domains
decode. -/
theorem decodeAcceptsExactlyTheDefinedWords : Obligations.DecodeAcceptsExactlyTheDefinedWords := by
  intro w
  rw [definedWord_iff]
  constructor
  · rintro ⟨i, h⟩
    obtain ⟨rfl, hwf⟩ := encodeUndoesDecode w i h
    exact ⟨i.opcode, selectsRow i, by rw [ofWord_encode]; exact operandsInDomain_slots i hwf⟩
  · rintro ⟨o, hrow, hdom⟩
    obtain ⟨hop, -⟩ := slots_of_selects hrow
    rw [decode_of_code hop]
    exact exists_decodeOperands hrow hdom

end Sys2Proof

namespace Sys2Proof.Machine

/-! ### Words and terms that are refused (R106, R110) -/

theorem decode_error_of_not_definedWord {w : Cmd} (h : ¬ DefinedWord w) : ∃ e, decode w = .error e := by
  cases hd : decode w with
  | ok i => exact absurd ((decodeAcceptsExactlyTheDefinedWords w).mp ⟨i, hd⟩) h
  | error e => exact ⟨e, rfl⟩

theorem runWord_of_decode_error {w : Cmd} {e : DecodeError} (h : decode w = .error e) (s : State) :
    runWord w s = .next (s.respond .valIllegal 0) := by
  rw [runWord, h]
  rfl

/-- Settles O5: the step runs the word, and a word that does not decode is refused. -/
theorem undefinedWordIsRefused : Obligations.UndefinedWordIsRefused := by
  intro s w env rest hnext hundef
  obtain ⟨e, he⟩ := decode_error_of_not_definedWord hundef
  rw [step_of_nextCommand hnext, runWord_of_decode_error he]

theorem execHwr_of_not_fits (k : Bank) {f : Field} {v : Word} (h : f.fits v = false) (s : State) :
    exec (.hwr k f v) s = .next (s.respond .valIllegal 0) := by
  simp [exec, execHwr, h]

/-- Settles O58: what a word decodes to is well-formed, and this term is not. -/
theorem tooWideHwrTermIsRefused : Obligations.TooWideHwrTermIsRefused := by
  intro k f v s hmagic hcounter hv
  have hfits : f.fits v = false := by
    rw [Bool.eq_false_iff, ne_eq, Field.fits_iff]
    rintro (h | h | h)
    exacts [hmagic h, hcounter h, by omega]
  refine ⟨fun w hw => ?_, execHwr_of_not_fits k hfits s⟩
  obtain ⟨-, hwf⟩ := encodeUndoesDecode w _ hw
  exact absurd (hfits.symm.trans hwf) (by decide)

/-- Settles O6: each word is the encoding of its command. -/
theorem sampleWordsDecode : Obligations.SampleWordsDecode := by
  have hdec : ∀ {w : Cmd} (i : Instr), i.wf = true → encode i = w → decode w = .ok i := by
    rintro w i hwf rfl
    exact decodeUndoesEncode i hwf
  exact ⟨hdec _ (by decide) (by decide), hdec _ (by decide) (by decide), hdec _ (by decide) (by decide),
    hdec _ (by decide) (by decide), hdec _ (by decide) (by decide), hdec _ (by decide) (by decide)⟩

/-! ### Counts (R100, R153 to R156) -/

/-- A count in 1..256 survives the stored byte (R100). -/
theorem countOf_storedCount {n : Half} (h1 : 1 ≤ n.toNat) (h2 : n.toNat ≤ 256) : countOf (storedCount n) = n.setWidth 32 := by
  simp only [countOf, storedCount]
  bv_omega

theorem countInRange_iff (n : Half) : countInRange n = true ↔ 1 ≤ n.toNat ∧ n.toNat ≤ 256 := by
  simp [countInRange]

section
variable (k : Bank) {n : Half} (h1 : 1 ≤ n.toNat) (h2 : n.toNat ≤ 256) (s : State)
include h1 h2

theorem execSetspf_of_inRange :
    exec (.setspf k n) s = .next ((s.setBank k { s.bank k with formatNbs := storedCount n }).respond .ok 0) :=
  congrArg Host.Outcome.next (if_pos ((countInRange_iff n).mpr ⟨h1, h2⟩))

theorem execSetch_of_inRange :
    exec (.setch k n) s = .next ((s.setBank k { s.bank k with formatNbc := storedCount n }).respond .ok 0) :=
  congrArg Host.Outcome.next (if_pos ((countInRange_iff n).mpr ⟨h1, h2⟩))

theorem execGetspf_of_stored (h : (s.bank k).formatNbs = storedCount n) :
    exec (.getspf k) s = .next (s.respond .ok (n.setWidth 32)) := by
  rw [exec, execGetspf, h, countOf_storedCount h1 h2]

theorem execGetch_of_stored (h : (s.bank k).formatNbc = storedCount n) :
    exec (.getch k) s = .next (s.respond .ok (n.setWidth 32)) := by
  rw [exec, execGetch, h, countOf_storedCount h1 h2]

end

/-- Settles O17: each setter stores its count in its own byte and leaves the other's. -/
theorem storedCountsReadBack : Obligations.StoredCountsReadBack := by
  intro k n m s hn1 hn2 hm1 hm2
  constructor
  · refine ⟨_, _, execSetspf_of_inRange k hn1 hn2 s, execSetch_of_inRange k hm1 hm2 _, ?_, ?_⟩
    · exact execGetspf_of_stored k hn1 hn2 _ (by simp)
    · exact execGetch_of_stored k hm1 hm2 _ (by simp)
  · refine ⟨_, _, execSetch_of_inRange k hm1 hm2 s, execSetspf_of_inRange k hn1 hn2 _, ?_, ?_⟩
    · exact execGetspf_of_stored k hn1 hn2 _ (by simp)
    · exact execGetch_of_stored k hm1 hm2 _ (by simp)

/-! ### Header fields (R108, R161, R162) -/

theorem setWidth_setWidth_of_lt {v : Word} (h : v.toNat < 256) : (v.setWidth 8).setWidth 32 = v := by
  bv_omega

/-- A field reads as the value written to it (R161, R162). -/
theorem field_setField_same (h : Header) {f : Field} {v : Word} (hf : f.fits v = true) : (h.setField f v).field f = v := by
  have hv := (Field.fits_iff f v).mp hf
  cases f with
  | magic | frameCounter => rfl
  | formatSr | formatNbs | formatNbc | formatBit => exact setWidth_setWidth_of_lt (by simpa using hv)
  | name i =>
    simp only [Header.field, Header.setField, Vector.getElem_set_self]
    exact setWidth_setWidth_of_lt (by simpa using hv)

/-- Every other field reads as before (R162). -/
theorem field_setField_ne (h : Header) {f g : Field} (hne : g ≠ f) (v : Word) : (h.setField f v).field g = h.field g := by
  cases f with
  | name i =>
    cases g with
    | name j =>
      have hij : i.toNat ≠ j.toNat := fun e => hne (congrArg Field.name (BitVec.eq_of_toNat_eq e.symm))
      simp only [Header.field, Header.setField, Vector.getElem_set_ne _ _ hij]
    | magic | formatSr | formatNbs | formatNbc | formatBit | frameCounter => rfl
  | magic | formatSr | formatNbs | formatNbc | formatBit | frameCounter =>
    cases g <;> simp_all [Header.field, Header.setField]

/-- Settles O23: `HWR` of a fitting value replaces one field of one bank, and `HRD` reads a field of a bank. -/
theorem writtenFieldReadsBack : Obligations.WrittenFieldReadsBack := by
  intro k f v s hf
  refine ⟨_, execHwr_of_fits k hf s, ?_, fun j g hjg => ⟨_, rfl, ?_⟩⟩
  · rw [exec, execHrd, State.bank_respond, State.bank_setBank, if_pos rfl, field_setField_same _ hf]
  · rw [exec, execHrd, State.bank_respond, State.bank_setBank]
    split_ifs with hj
    · subst hj
      rw [field_setField_ne _ (hjg.resolve_left fun h => h rfl)]
    · rfl

/-! ### The header image (R91 to R93) -/

theorem wireByte_name (h : Header) {i : Nat} (hi : i < 16) : h.wireByte (8 + i) = h.streamName[i] := by
  rw [Header.wireByte, if_neg (by omega), if_neg (by omega), if_neg (by omega), if_neg (by omega), if_neg (by omega),
    if_pos (by omega), Nat.add_sub_cancel_left]
  simp [hi]

theorem decHeader_encHeader (h : Header) : decHeader (encHeader h) = h := by
  have hmagic : (encHeader h).take 4 = le32 h.magic := by
    rw [encHeader, List.append_assoc, List.append_assoc]
    exact List.take_left' rfl
  have hcounter : (encHeader h).drop 24 = le32 h.frameCounter := List.drop_left' (by simp)
  have hname : (nameOfFn fun i => (encHeader h).getD (8 + i) 0) = h.streamName := by
    refine Vector.ext fun i hi => ?_
    rw [getElem_nameOfFn _ i hi, getD_encHeader h (by omega), wireByte_name h hi]
  rw [decHeader, hmagic, hcounter, hname, unle32_le32, unle32_le32]
  rfl

/-- Bytes picked one by one are a slice of the string. -/
theorem map_getD_range (s : List Byte) {a n : Nat} (h : a + n ≤ s.length) :
    ((List.range n).map fun i => s.getD (a + i) 0) = (s.drop a).take n := by
  apply List.ext_getElem
  · simp; omega
  · intro i hi _
    simp only [List.length_map, List.length_range] at hi
    simp [show a + i < s.length by omega]

/-- The four parts of the wire table, cut from a 28-byte string and put together again, are the string (R91, R92). -/
theorem encHeader_decHeader {s : List Byte} (hs : s.length = 28) : encHeader (decHeader s) = s := by
  have hformat : [s.getD 4 0, s.getD 5 0, s.getD 6 0, s.getD 7 0] = (s.drop 4).take 4 :=
    map_getD_range s (a := 4) (n := 4) (by omega)
  have hname : (nameOfFn fun i => s.getD (8 + i) 0).toList = (s.drop 8).take 16 := map_getD_range s (by omega)
  calc encHeader (decHeader s)
    _ = s.take 4 ++ (s.drop 4).take 4 ++ (s.drop 8).take 16 ++ s.drop 24 := by
      simp only [encHeader, decHeader, hformat, hname, le32_unle32 (s.take 4) (by simp [hs]),
        le32_unle32 (s.drop 24) (by simp [hs])]
    _ = s.take 24 ++ s.drop 24 := by rw [← List.take_add, ← List.take_add]
    _ = s := List.take_append_drop 24 s

/-- Settles O24: decoding and encoding are inverse, and the image is the wire table's byte by byte. -/
theorem headerImageIsABijection : Obligations.HeaderImageIsABijection :=
  ⟨fun h => ⟨decHeader_encHeader h, length_encHeader h, fun _ hi => getD_encHeader h hi⟩, fun _ hs => encHeader_decHeader hs⟩

/-! ### One response a command (R112, R256) -/

/-- Two states with the same responses given, inputs to come and answers of the environment. -/
def SameOutside (s t : State) : Prop :=
  t.responses = s.responses ∧ t.inputs = s.inputs ∧ t.env = s.env

/-- One response is given; the inputs to come and the answers of the environment stay (R43, R112). -/
def AnswersOnce (s t : State) : Prop :=
  ∃ r, t.responses = s.responses ++ [r] ∧ t.inputs = s.inputs ∧ t.env = s.env

theorem SameOutside.answersOnce {s t : State} (h : SameOutside s t) (st : Status) (v : Word) :
    AnswersOnce s (t.respond st v) := by
  obtain ⟨hresp, hin, henv⟩ := h
  exact ⟨⟨st, v⟩, congrArg (· ++ [_]) hresp, hin, henv⟩

theorem unmarshalPacket_sameOutside (s : State) : SameOutside s (unmarshalPacket s).2 := by
  obtain ⟨st, v, e, -⟩ | ⟨v, h, len, bs, e, -, -⟩ := unmarshalPacket_effect s <;> rw [e] <;> exact ⟨rfl, rfl, rfl⟩

theorem writeReg_sameOutside {s t : State} {c : CReg} {v : Word} (h : s.writeReg c v = some t) : SameOutside s t := by
  obtain ⟨-, rfl⟩ | ⟨-, rfl⟩ | ⟨-, rfl⟩ | ⟨-, -, rfl⟩ := writeReg_effect s t c v h <;> exact ⟨rfl, rfl, rfl⟩

theorem CommandEffect.answersOnce {i : Instr} {s t : State} (h : CommandEffect i s t) : AnswersOnce s t := by
  cases h with
  | split => exact (unmarshalPacket_sameOutside s).answersOnce _ _
  | register r v _ u c hu => exact (writeReg_sameOutside hu).answersOnce _ _
  | sent a _ dest =>
    obtain ⟨st, v, e, -⟩ := sendTo_effect dest s
    rw [e]
    exact ⟨⟨st, v⟩, rfl, rfl, rfl⟩
  | answer | writeBank | forget | name | header | newPacket | packet | opened | wait | closed | closedPending | store =>
    exact SameOutside.answersOnce (by simp [SameOutside]) _ _

/-- Settles O51: every command completes with one of its effects, and each gives one response and keeps the parameters. -/
theorem everyCommandAnswersOnce : Obligations.EveryCommandAnswersOnce := by
  intro i s
  obtain ⟨t, ht, he⟩ := exec_effect i s
  obtain ⟨r, hresp, hin, henv⟩ := he.answersOnce
  exact ⟨t, r, ht, hresp, he.cfg, hin, henv⟩

end Sys2Proof.Machine
end

section
/-! The statements of the spec's field model chapter: what the extractors and the predicates of a format byte answer (R130 to R135,
R138, R140), the rate lookup (R137), the data type widths (R139), and that none of these commands reads a register (R141). -/

namespace Sys2Proof.Machine

/-- A well-formed command is encoded as the numbers of its slots (R105, R110). -/
theorem EncodedAs.of_wf {i : Instr} {op a b d : Nat} (hwf : i.wf = true) (hop : i.opcode.code.toNat = op)
    (ha : i.operandSlots.1.toNat = a) (hb : i.operandSlots.2.1.toNat = b) (hd : i.operandSlots.2.2.toNat = d) :
    EncodedAs i op a b d :=
  .of_roundTrip i op a b d (decodeUndoesEncode i hwf) (fun w hw => (encodeUndoesDecode w i hw).1) hop ha hb hd

/-! ### Extractors (R94, R96) -/

theorem toNat_spOf (x : Byte) : (spOf x).toNat = x.toNat / 32 * 32 := by revert x; decide

theorem toNat_srOf (x : Byte) : (srOf x).toNat = x.toNat % 32 := Nat.and_two_pow_sub_one_eq_mod x.toNat 5

theorem toNat_dtOf (x : Byte) : (dtOf x).toNat = x.toNat % 8 := Nat.and_two_pow_sub_one_eq_mod x.toNat 3

theorem toNat_codecOf (x : Byte) : (codecOf x).toNat = x.toNat / 16 * 16 := by revert x; decide

/-- A byte answered as a 32-bit value keeps its number (R16). -/
theorem toNat_zext (x : Byte) : (x.setWidth 32).toNat = x.toNat := BitVec.toNat_setWidth_of_le (by decide)

/-- Settles O7: each extractor answers its masked byte, zero-extended. -/
theorem extractorsMaskTheirByte : Obligations.ExtractorsMaskTheirByte := by
  intro x sp s
  refine ⟨.of_wf rfl rfl rfl rfl rfl, .of_wf rfl rfl rfl rfl rfl, .of_wf rfl rfl rfl rfl rfl,
    .of_wf rfl rfl rfl (spSlot_toNat sp) rfl, ⟨_, rfl, ?_⟩, ⟨_, rfl, ?_⟩, ⟨_, rfl, ?_⟩, ⟨_, rfl, ?_⟩⟩
  · rw [toNat_zext, toNat_spOf]
  · rw [toNat_zext, toNat_srOf]
  · rw [toNat_zext, toNat_dtOf]
  · rw [toNat_zext, toNat_codecOf]

/-! ### Predicates (R94, R95) -/

theorem toNat_spInPlace (tag : BitVec 3) : (spInPlace tag).toNat = tag.toNat * 32 := by revert tag; decide

/-- A byte has the sub-protocol that its top three bits name. -/
theorem spOf_eq_spInPlace_iff (tag : BitVec 3) (x : Byte) : spOf x = spInPlace tag ↔ x.toNat / 32 = tag.toNat := by
  rw [← BitVec.toNat_inj, toNat_spOf, toNat_spInPlace]
  omega

/-- A predicate may be read as any condition that its tag's 32 bytes alone meet. -/
theorem isSp_eq_ite {tag : BitVec 3} {x : Byte} {p : Prop} [Decidable p] (h : x.toNat / 32 = tag.toNat ↔ p) :
    isSp tag x = if p then 1 else 0 :=
  if_congr (beq_iff_eq.trans ((spOf_eq_spInPlace_iff tag x).trans h)) rfl rfl

/-- Settles O8: the bytes of a tag are one range of 32. -/
theorem predicatesSelectTheirByteRange : Obligations.PredicatesSelectTheirByteRange := by
  intro x s
  refine ⟨.of_wf rfl rfl rfl rfl rfl, .of_wf rfl rfl rfl rfl rfl, .of_wf rfl rfl rfl rfl rfl, .of_wf rfl rfl rfl rfl rfl, ?_⟩
  have haudio : isSp 0 x = if x.toNat ≤ 0x1F then 1 else 0 := isSp_eq_ite (by bv_omega)
  have hserial : isSp 1 x = if 0x20 ≤ x.toNat ∧ x.toNat ≤ 0x3F then 1 else 0 := isSp_eq_ite (by bv_omega)
  have htext : isSp 2 x = if 0x40 ≤ x.toNat ∧ x.toNat ≤ 0x5F then 1 else 0 := isSp_eq_ite (by bv_omega)
  have hservice : isSp 3 x = if 0x60 ≤ x.toNat ∧ x.toNat ≤ 0x7F then 1 else 0 := isSp_eq_ite (by bv_omega)
  rw [← haudio, ← hserial, ← htext, ← hservice]
  exact ⟨rfl, rfl, rfl, rfl⟩

/-! ### Rates (R136, R137) -/

theorem rateIn_of_entry {t : Vector (Option Word) 32} {idx : BitVec 5} {e : Option Word} (h : t[idx.toNat]? = some e) :
    rateIn t idx = e.getD 0 := by
  rw [Vector.getElem?_eq_getElem idx.isLt, Option.some_inj] at h
  rw [rateIn, h]

section
variable (c : Config) {tag : BitVec 3} (idx : BitVec 5)

theorem rateOf_audio (h : tag.toNat = 0) : rateOf c tag idx = rateIn c.srTable idx :=
  if_pos (BitVec.eq_of_toNat_eq h)

theorem rateOf_serial_or_text (h : tag.toNat = 1 ∨ tag.toNat = 2) : rateOf c tag idx = rateIn c.bpsTable idx := by
  rw [rateOf, if_neg (by bv_omega), if_pos (by bv_omega)]

theorem rateOf_other (h : 3 ≤ tag.toNat) : rateOf c tag idx = 0 := by
  rw [rateOf, if_neg (by bv_omega), if_neg (by bv_omega)]

end

/-- Settles O9: the tag picks the table, and a missing entry reads as 0. -/
theorem getrateLooksUpItsTable : Obligations.GetrateLooksUpItsTable := by
  intro sp idx s
  refine ⟨.of_wf rfl rfl (tagSlot_toNat sp) (idxSlot_toNat idx) rfl, _, rfl, fun r hsp he => ?_, fun hsp he => ?_,
    fun r hsp he => ?_, fun hsp he => ?_, rateOf_other s.cfg idx⟩
  · exact (rateOf_audio s.cfg idx hsp).trans (rateIn_of_entry he)
  · exact (rateOf_audio s.cfg idx hsp).trans (rateIn_of_entry he)
  · exact (rateOf_serial_or_text s.cfg idx hsp).trans (rateIn_of_entry he)
  · exact (rateOf_serial_or_text s.cfg idx hsp).trans (rateIn_of_entry he)

/-! ### Data types (R97) -/

theorem toNat_dtSize (dt : BitVec 3) : (dtSize dt).toNat = [1, 2, 0, 4, 4, 8, 0, 0].getD dt.toNat 0 := by revert dt; decide

/-- Settles O10: the answer is the data type's width. -/
theorem dtsizeGivesTheByteWidth : Obligations.DtsizeGivesTheByteWidth :=
  fun dt _ => ⟨.of_wf rfl rfl (dtSlot_toNat dt) rfl rfl, _, rfl, toNat_dtSize dt⟩

/-! ### Purity (R141) -/

/-- Settles O11: the value answered is a function of the command alone, for `GETRATE` of the command and the tables. -/
theorem fieldModelIsPure : Obligations.FieldModelIsPure := by
  intro i s s' hfield hcfg
  cases i with
  | getrate sp idx => exact ⟨rateOf s.cfg sp idx, rfl, by rw [hcfg rfl]; rfl⟩
  | getsp | isaudio | isserial | istext | isservice | getsr | getdt | dtsize | getcodec => exact ⟨_, rfl, rfl⟩
  | _ => simp [isFieldModel] at hfield

end Sys2Proof.Machine
end

section
/-! The statements of the spec's header codec chapter: the commands that write a bank and what they leave alone (R150, R151, R154,
R156, R157, R160, R162), those that read one (R152, R153, R155, R158, R161), and the status that none produces (R159, R229). -/

namespace Sys2Proof.Machine

/-! ### The status that nothing produces (R159, R229) -/

/-- `INT_SIZE` is in no response that `t` adds to those of `s`, and not newly in `RXSTATUS`. -/
def NoNewIntSize (s t : State) : Prop :=
  (∀ r ∈ t.responses, r ∈ s.responses ∨ r.status ≠ .intSize) ∧ (t.rxStatus = s.rxStatus ∨ t.rxStatus ≠ 0x01)

theorem Status.code_ne_one {st : Status} (h : st ≠ .intSize) : st.code ≠ 0x01 :=
  fun he => h (Status.code_injective st .intSize he)

section
variable {s t : State}

theorem NoNewIntSize.of_responses (hresp : t.responses = s.responses) (hrx : t.rxStatus = s.rxStatus ∨ t.rxStatus ≠ 0x01) :
    NoNewIntSize s t :=
  ⟨fun _ hr => .inl (hresp ▸ hr), hrx⟩

theorem NoNewIntSize.respond (h : NoNewIntSize s t) {st : Status} (hst : st ≠ .intSize) (v : Word) :
    NoNewIntSize s (t.respond st v) := by
  obtain ⟨hresp, hrx⟩ := h
  refine ⟨fun r hr => ?_, hrx⟩
  rw [State.respond_responses, List.mem_append, List.mem_singleton] at hr
  obtain hr | rfl := hr
  exacts [hresp r hr, .inr hst]

end

theorem unmarshalPacket_status_ne (s : State) : (unmarshalPacket s).1.1 ≠ .intSize := by
  obtain ⟨st, v, e, rfl | rfl | rfl⟩ | ⟨v, h, len, bs, e, -, -⟩ := unmarshalPacket_effect s <;> rw [e] <;> exact nofun

theorem unmarshalPacket_noNewIntSize (s : State) : NoNewIntSize s (unmarshalPacket s).2 := by
  obtain ⟨st, v, e, -⟩ | ⟨v, h, len, bs, e, -, -⟩ := unmarshalPacket_effect s <;> rw [e] <;>
    exact .of_responses rfl (.inl rfl)

theorem writeReg_noNewIntSize {s t : State} {c : CReg} {v : Word} (h : s.writeReg c v = some t) : NoNewIntSize s t := by
  obtain ⟨-, rfl⟩ | ⟨-, rfl⟩ | ⟨-, rfl⟩ | ⟨-, -, rfl⟩ := writeReg_effect s t c v h <;> exact .of_responses rfl (.inl rfl)

theorem sendTo_noNewIntSize (dest : Word) (s : State) : NoNewIntSize s (sendTo dest s) := by
  obtain ⟨st, v, e, hst⟩ := sendTo_effect dest s
  rw [e]
  refine NoNewIntSize.respond (.of_responses rfl (.inl rfl)) ?_ v
  obtain ⟨-, rfl, -⟩ | ⟨-, -, rfl, -⟩ | ⟨-, -, rfl, -⟩ := hst <;> decide

theorem rxFail_noNewIntSize (s : State) {st : Status} (hst : st ≠ .intSize) : NoNewIntSize s (s.rxFail st) :=
  .of_responses rfl (.inr (Status.code_ne_one hst))

theorem netDeliver_noNewIntSize (bytes : List Byte) (src : Word) (s : State) : NoNewIntSize s (netDeliver bytes src s) := by
  obtain ⟨bs, len, st, v, ra, rv, d, -, -, hst, ⟨pv, e⟩ | ⟨h, pl, p, -, -, e⟩⟩ := netDeliver_effect bytes src s <;> rw [e] <;>
    exact .of_responses rfl (.inr (Status.code_ne_one hst))

/-- No command produces `INT_SIZE`, one case an effect. -/
theorem CommandEffect.noNewIntSize {i : Instr} {s t : State} (h : CommandEffect i s t) : NoNewIntSize s t := by
  cases h with
  | answer _ _ st v hst => exact NoNewIntSize.respond (.of_responses rfl (.inl rfl)) hst v
  | split => exact (unmarshalPacket_noNewIntSize s).respond (unmarshalPacket_status_ne s) _
  | sent a _ dest => exact sendTo_noNewIntSize dest s
  | closedPending =>
    exact NoNewIntSize.respond
      (rxFail_noNewIntSize { s with epOpen := false, epHasRemote := false, epRemote := 0 } (by decide)) (by decide) 0
  | register r v _ u c hu => exact (writeReg_noNewIntSize hu).respond (by decide) 0
  | writeBank | forget | name | header | newPacket | packet | opened | wait | closed | store =>
    exact NoNewIntSize.respond (.of_responses (by simp) (.inl (by simp))) (by decide) _

/-- Settles O53: a case analysis on how the step goes on; each command is a case of its effect, and the network events complete a
receive with a status of their own. -/
theorem internalSizeErrorNeverProduced : Obligations.InternalSizeErrorNeverProduced := by
  intro s t h
  obtain ⟨-, rfl⟩ | ⟨w, env, rest, i, -, -, he⟩ | ⟨w, env, rest, e, -, -, rfl⟩ | ⟨bytes, src, rest, -, -, rfl⟩ |
    ⟨closed, rest, -, -, rfl⟩ := step_cases s t h
  · exact NoNewIntSize.of_responses rfl (.inl rfl)
  · exact (CommandEffect.of_exec he).noNewIntSize
  · exact NoNewIntSize.respond (.of_responses rfl (.inl rfl)) (by decide) 0
  · exact netDeliver_noNewIntSize bytes src { s with inputs := rest }
  · exact rxFail_noNewIntSize { s with inputs := rest } (by cases closed <;> decide)

/-! ### A bank written (R150, R151) -/

/-- A write of one bank, answered with OK, leaves the other banks and all the rest. -/
theorem setBank_respond_frame (s : State) (k : Bank) (h : Header) {t : State} (ht : t = (s.setBank k h).respond .ok 0) :
    t.bank k = h ∧ (∀ j, j ≠ k → t.bank j = s.bank j) ∧
      t = { s with h0 := t.h0, h1 := t.h1, h2 := t.h2, responses := s.responses ++ [⟨.ok, 0⟩] } := by
  subst ht
  refine ⟨by simp, fun j hj => by simp [hj], ?_⟩
  cases k <;> rfl

/-- The name set from the name operand is `NBUF[0..NLEN-1]`, cut or zero-filled to 16 bytes (R30, R102). -/
theorem getD_nameSet_nameOperand (s : State) {i : Nat} (hi : i < 16) :
    (nameSet s.nameOperand).toList.getD i 0 = if i < s.nlen.toNat then Memory.read s.nbuf i else 0 := by
  rw [getD_nameSet _ _ hi, State.nameOperand]
  split_ifs with hn
  · rw [Memory.getD_readBytes _ _ _ _ hn, Nat.zero_add]
  · exact List.getD_eq_default _ _ (by simpa using hn)

/-- Settles O12: the bank takes the new header whole, and a write of one bank leaves the rest. -/
theorem hnewOverwritesItsBank : Obligations.HnewOverwritesItsBank := by
  intro k sp s
  refine ⟨.of_wf rfl rfl (bankSlot_toNat k) (spSlot_toNat sp) rfl, _, rfl, ?_⟩
  obtain ⟨hbank, hothers, hrest⟩ := setBank_respond_frame s k (newHeader s.cfg.magic sp s.nameOperand) rfl
  rw [hbank]
  exact ⟨rfl, toNat_spInPlace sp, rfl, rfl, rfl, rfl, fun i hi => getD_nameSet_nameOperand s hi, hothers, hrest⟩

/-- Settles O13: the bank keeps all but its name, and a write of one bank leaves the rest. -/
theorem setnameWritesAllSixteenBytes : Obligations.SetnameWritesAllSixteenBytes := by
  intro k s
  refine ⟨.of_wf rfl rfl (bankSlot_toNat k) rfl rfl, _, rfl, ?_⟩
  obtain ⟨hbank, hothers, hrest⟩ :=
    setBank_respond_frame s k { s.bank k with streamName := nameSet s.nameOperand } rfl
  rw [hbank]
  exact ⟨fun i hi => getD_nameSet_nameOperand s hi, rfl, hothers, hrest⟩

/-! ### The name result (R152) -/

/-- A name in `NRES`: the field's bytes below the name's length, then zeros, and the old bytes past the 16 (R102, R152). -/
theorem read_putName (s : State) (f : NameField) (i : Nat) :
    Memory.read (s.putName (nameGet f)).nres i =
      if i < (nameGet f).length then f.toList.getD i 0 else if i < 16 then 0 else Memory.read s.nres i := by
  have hle := length_nameGet_le f
  rw [State.putName, Memory.read_write, Vector.length_toList, Nat.zero_add, Nat.sub_zero]
  by_cases hi : i < 16
  · rw [if_pos ⟨i.zero_le, hi⟩, if_pos hi, getD_nameSet _ _ hi]
    exact getD_takeWhile_name f.toList i
  · rw [if_neg fun h => hi h.2, if_neg (by omega), if_neg hi]

/-- Settles O14: the name is the longest part of the field without a zero byte, and it is put into `NRES` zero-filled. -/
theorem getnameStopsAtTheFirstZero : Obligations.GetnameStopsAtTheFirstZero := by
  intro k s
  have hle := length_nameGet_le (s.bank k).streamName
  refine ⟨.of_wf rfl rfl (bankSlot_toNat k) rfl rfl, _, _, execGetname_eq k s, hle, fun i hi => getD_name_ne_zero _ i hi,
    fun _ => getD_name_end _, read_putName s _, ?_, rfl⟩
  rw [State.respond_nresLen, State.putName, BitVec.toNat_ofNat]
  omega

/-! ### Counts stored and answered (R100, R153 to R156) -/

theorem toNat_storedCount {n : Half} (h1 : 1 ≤ n.toNat) (h2 : n.toNat ≤ 256) : (storedCount n).toNat = n.toNat - 1 := by
  rw [storedCount]
  bv_omega

/-- The sum is formed at 32 bits and does not wrap (R100). -/
theorem toNat_countOf (v : Byte) : (countOf v).toNat = v.toNat + 1 := by
  rw [countOf]
  bv_omega

section
variable (k : Bank) {n : Half} (h : n.toNat = 0 ∨ 256 < n.toNat) (s : State)
include h

theorem countInRange_of_outside : ¬ countInRange n = true := by
  rw [countInRange_iff]
  omega

theorem execSetspf_of_outside : exec (.setspf k n) s = .next (s.respond .valSpfRange (n.setWidth 32)) :=
  congrArg Host.Outcome.next (if_neg (countInRange_of_outside h))

theorem execSetch_of_outside : exec (.setch k n) s = .next (s.respond .valChRange (n.setWidth 32)) :=
  congrArg Host.Outcome.next (if_neg (countInRange_of_outside h))

end

/-- Settles O15: a count in range is stored minus one, any other fails its test before a write. -/
theorem countSettersStoreMinusOne : Obligations.CountSettersStoreMinusOne := by
  intro k n s
  refine ⟨.of_wf rfl rfl (bankSlot_toNat k) rfl rfl, .of_wf rfl rfl (bankSlot_toNat k) rfl rfl, fun h1 h2 => ?_, fun h => ?_⟩
  · have hv := toNat_storedCount h1 h2
    exact ⟨⟨_, hv, execSetspf_of_inRange k h1 h2 s⟩, ⟨_, hv, execSetch_of_inRange k h1 h2 s⟩⟩
  · exact ⟨execSetspf_of_outside k h s, execSetch_of_outside k h s⟩

/-- Settles O16: each getter answers the count of its stored byte. -/
theorem countGettersAddOne : Obligations.CountGettersAddOne := fun k _ =>
  ⟨.of_wf rfl rfl (bankSlot_toNat k) rfl rfl, .of_wf rfl rfl (bankSlot_toNat k) rfl rfl, ⟨_, rfl, toNat_countOf _⟩,
    ⟨_, rfl, toNat_countOf _⟩⟩

/-! ### The audio format (R157) -/

/-- Codec in place, bit 3 zero, data type (R97, R157). -/
theorem toNat_audioBits (codec : BitVec 4) (dt : BitVec 3) :
    (((codec.setWidth 8 <<< 4) ||| dt.setWidth 8) &&& 0xF7 : Byte).toNat = codec.toNat * 16 + dt.toNat := by
  revert codec dt
  decide

/-- Settles O18: the index fills `FORMAT_SR` with tag 0, and the mask clears bit 3 of `FORMAT_BIT`. -/
theorem setafmtWritesBothFormatBytes : Obligations.SetafmtWritesBothFormatBytes := fun k idx dt rsv codec _ =>
  ⟨.of_wf rfl rfl (bankSlot_toNat k) (afmtSlot_toNat idx dt rsv codec) rfl, _, _, BitVec.toNat_setWidth_of_le (by decide),
    toNat_audioBits codec dt, rfl⟩

/-! ### The header image out and in (R158, R160) -/

/-- Settles O19: the image is 28 bytes, those of the wire table, and a write keeps the bytes beyond. -/
theorem hmarshalEmitsTheWireImage : Obligations.HmarshalEmitsTheWireImage := by
  intro k s
  refine ⟨.of_wf rfl rfl (bankSlot_toNat k) rfl rfl, _, rfl, fun i => ?_, ?_⟩
  · rw [State.respond_txbuf, State.compose_txbuf, Memory.read_write, length_encHeader, Nat.zero_add, Nat.sub_zero]
    by_cases hi : i < 28
    · rw [if_pos ⟨i.zero_le, hi⟩, if_pos hi, getD_encHeader _ hi]
    · rw [if_neg fun h => hi h.2, if_neg hi]
  · rw [State.compose, length_encHeader]
    rfl

/-- The staging header is the one whose wire image is `RXBUF[0..27]` (R92, R160). -/
theorem stagedHeader_imageIn (s : State) : s.stagedHeader.ImageIn s.rxbuf := by
  intro i hi
  rw [← getD_encHeader _ hi, State.stagedHeader, encHeader_decHeader (by simp),
    Memory.getD_readBytes _ _ Config.headerSize _ hi, Nat.zero_add]

section
variable (k : Bank) {s : State}

theorem execHunmarshal_short (h : s.rxlen.toNat < 28) :
    exec (.hunmarshal k) s = .next (s.respond .protoShort (s.rxlen.setWidth 32)) :=
  congrArg Host.Outcome.next (if_pos h)

variable (h : 28 ≤ s.rxlen.toNat)
include h

theorem execHunmarshal_ok (hm : s.stagedHeader.magic = s.cfg.magic) :
    exec (.hunmarshal k) s = .next ((s.setBank k s.stagedHeader).respond .ok 0) :=
  congrArg Host.Outcome.next ((if_neg (not_lt.mpr h)).trans (if_neg (not_not.mpr hm)))

theorem execHunmarshal_badMagic (hm : s.stagedHeader.magic ≠ s.cfg.magic) :
    exec (.hunmarshal k) s = .next ((s.forgetBank k).respond .protoBadMagic s.stagedHeader.magic) :=
  congrArg Host.Outcome.next ((if_neg (not_lt.mpr h)).trans (if_pos hm))

end

/-- Settles O20: the length is tested first, and the header tested next and taken is the staging header. -/
theorem hunmarshalDecodesOrFails : Obligations.HunmarshalDecodesOrFails := fun k s =>
  ⟨.of_wf rfl rfl (bankSlot_toNat k) rfl rfl, execHunmarshal_short k, fun h =>
    ⟨s.stagedHeader, stagedHeader_imageIn s, execHunmarshal_ok k h, fun hm => ⟨_, _, execHunmarshal_badMagic k h hm⟩⟩⟩

/-! ### One field read or written (R108, R161, R162) -/

theorem field_name (h : Header) (i : BitVec 4) : h.field (.name i) = (h.streamName.toList.getD i.toNat 0).setWidth 32 := by
  have hi : i.toNat < 16 := i.isLt
  simp [Header.field, hi]

/-- Settles O21: a byte field is answered zero-extended, the two 32-bit fields as they stand. -/
theorem hrdReadsTheSelectedField : Obligations.HrdReadsTheSelectedField := by
  intro k s
  refine ⟨fun f => .of_wf rfl rfl (bankSlot_toNat k) (selSlot_toNat f) rfl, rfl, rfl, fun f b hfb => ?_⟩
  have hfield : (s.bank k).field f = b.setWidth 32 := by
    obtain ⟨rfl, rfl⟩ | ⟨rfl, rfl⟩ | ⟨rfl, rfl⟩ | ⟨rfl, rfl⟩ | ⟨i, rfl, rfl⟩ := hfb
    exacts [rfl, rfl, rfl, rfl, field_name _ i]
  exact ⟨b.setWidth 32, toNat_zext b, by rw [exec, execHrd, hfield]⟩

/-- A value of 256 or more does not suit an 8-bit field (R110). -/
theorem not_fits_of_wide {f : Field} {v : Word} (hmagic : f ≠ .magic) (hcounter : f ≠ .frameCounter) (hv : 256 ≤ v.toNat) :
    f.fits v = false := by
  rw [Bool.eq_false_iff, ne_eq, Field.fits_iff]
  rintro (h | h | h)
  exacts [hmagic h, hcounter h, by omega]

/-- The word of an `HWR` whose value is too wide for its field has a selector and a bank, and is refused for its value (R106,
R110). -/
theorem decode_encode_hwr_of_not_fits (k : Bank) {f : Field} {v : Word} (h : f.fits v = false) :
    decode (encode (.hwr k f v)) = .error .wideValue := by
  rw [decode_of_code (congrArg Slots.op (ofWord_encode _)), ofWord_encode]
  simp [Instr.opcode, Instr.slots, Instr.operandSlots, decodeOperands, decodeBank_bankSlot, decodeField_selector, selSlot_low,
    selSlot_high, h]

/-- The word of `HWR` as its four numbers (R105, R110). -/
theorem encode_hwr (k : Bank) (f : Field) (v : Word) :
    encode (.hwr k f v) = commandWord 0x2B (bankNumber k) (selectorNumber f) v.toNat := by
  rw [encode_eq_commandWord, ← bankSlot_toNat, ← selSlot_toNat]
  rfl

/-- Settles O22: a value that fits is written to its field alone; the word of any other decodes to no command. -/
theorem hwrWritesTheSelectedField : Obligations.HwrWritesTheSelectedField := by
  intro k s
  refine ⟨fun f v hf => ?_, fun v => ?_, fun v => ?_, fun v hv => ?_, fun f v hmagic hcounter hv i => ?_⟩
  · exact .of_wf ((Field.fits_iff f v).mpr hf) rfl (bankSlot_toNat k) (selSlot_toNat f) rfl
  · exact execHwr_of_fits k ((Field.fits_iff _ v).mpr (.inl rfl)) s
  · exact execHwr_of_fits k ((Field.fits_iff _ v).mpr (.inr (.inl rfl))) s
  · have hwrite := fun f => execHwr_of_fits k ((Field.fits_iff f v).mpr (.inr (.inr hv))) s
    refine ⟨v.setWidth 8, by bv_omega, hwrite _, hwrite _, hwrite _, hwrite _, fun i => ⟨_, ?_, hwrite (.name i)⟩⟩
    rfl
  · rw [← encode_hwr, decode_encode_hwr_of_not_fits k (not_fits_of_wide hmagic hcounter hv)]
    nofun

end Sys2Proof.Machine
end

section
/-! The statements of the spec's packet framing chapter: the transmit packet built (R180) and composed (R181), the receive buffer
split (R183), and the round trip of the two (R182), in one block and from one block to another (R199). -/

namespace Sys2Proof.Machine

/-! ### Strings cut and copied -/

/-- A string read is its first part, then the rest. -/
theorem Memory.readBytes_add (m : Memory) (a n k : Nat) :
    Memory.readBytes m a (n + k) = Memory.readBytes m a n ++ Memory.readBytes m (a + n) k := by
  simp [Memory.readBytes, List.range_add, Nat.add_assoc, Function.comp_def]

/-- Bytes copied from one space to the start of another, over its old bytes. -/
theorem Memory.read_write_readBytes (m p : Memory) (a n i : Nat) :
    Memory.read (Memory.write m 0 (Memory.readBytes p a n)) i =
      if i < n then Memory.read p (a + i) else Memory.read m i := by
  rw [Memory.read_write, Memory.length_readBytes, Nat.zero_add, Nat.sub_zero]
  by_cases hi : i < n
  · rw [if_pos ⟨i.zero_le, hi⟩, if_pos hi, Memory.getD_readBytes _ _ _ _ hi]
  · rw [if_neg fun h => hi h.2, if_neg hi]

/-- The length of a legal packet or payload fits the 11 bits of its register (R33 to R35). -/
theorem toNat_ofNat_length {n : Nat} (h : n ≤ 1464) : (BitVec.ofNat 11 n).toNat = n := by
  rw [BitVec.toNat_ofNat]
  omega

/-! ### The transmit packet built and composed (R180, R181) -/

theorem execPnew_of_gt (k : Bank) {n : Half} (h : 1436 < n.toNat) (s : State) :
    exec (.pnew k n) s = .next (s.respond .valPayloadTooLarge (n.setWidth 32)) :=
  congrArg Host.Outcome.next (if_pos h)

/-- Settles O26: the length is tested first, and one that passes fits the 12 bits of `TPKT.LEN`. -/
theorem pnewBuildsTheTransmitPacket : Obligations.PnewBuildsTheTransmitPacket := by
  intro k n s
  refine ⟨.of_wf rfl rfl (bankSlot_toNat k) rfl rfl, fun h => ⟨_, ?_, execPnew_of_le k h s⟩, fun h => execPnew_of_gt k h s⟩
  rw [BitVec.toNat_setWidth]
  omega

section
variable {s : State}

theorem execPmarshal_of_nil (hv : s.tpktValid = false) : exec .pmarshal s = .next (s.respond .valNilPacket 0) :=
  congrArg Host.Outcome.next (if_pos hv)

variable (hv : s.tpktValid = true)
include hv

theorem execPmarshal_of_gt (h : 1436 < s.tpktLen.toNat) :
    exec .pmarshal s = .next (s.respond .valPayloadTooLarge (s.tpktLen.setWidth 32)) :=
  congrArg Host.Outcome.next ((if_neg (by simp [hv])).trans (if_pos h))

theorem execPmarshal_of_le (h : s.tpktLen.toNat ≤ 1436) :
    exec .pmarshal s =
      .next ((s.compose s.flatPacket).respond .ok (BitVec.ofNat 32 (28 + s.tpktLen.toNat))) :=
  congrArg Host.Outcome.next ((if_neg (by simp [hv])).trans (if_neg (not_lt.mpr h)))

end

/-- The composed datagram in `TXBUF`: header image, then payload, then the old bytes (R181). -/
theorem State.read_compose_flatPacket (s : State) (i : Nat) :
    Memory.read (s.compose s.flatPacket).txbuf i =
      if i < 28 then s.h1.wireByte i
      else if i < 28 + s.tpktLen.toNat then Memory.read s.tpmem (i - 28)
      else Memory.read s.txbuf i := by
  rw [State.compose_txbuf, Memory.read_write, State.length_flatPacket, Nat.zero_add, Nat.sub_zero]
  by_cases hi : i < 28 + s.tpktLen.toNat
  · rw [if_pos ⟨i.zero_le, hi⟩, State.getD_flatPacket s hi, if_pos hi]
  · rw [if_neg fun h => hi h.2, if_neg (by omega), if_neg hi]

theorem State.txlen_compose_flatPacket {s : State} (h : s.tpktLen.toNat ≤ 1436) :
    (s.compose s.flatPacket).txlen.toNat = 28 + s.tpktLen.toNat := by
  rw [State.compose_txlen, State.length_flatPacket, toNat_ofNat_length (by omega)]

/-- Settles O27: the packet is tested, then its length, and a success composes the flat bytes as they stand. -/
theorem pmarshalComposesTheDatagram : Obligations.PmarshalComposesTheDatagram := fun s =>
  ⟨.of_wf rfl rfl rfl rfl rfl, execPmarshal_of_nil, execPmarshal_of_gt, fun hv h =>
    ⟨_, execPmarshal_of_le hv h, s.read_compose_flatPacket, State.txlen_compose_flatPacket h, rfl⟩⟩

/-! ### The receive buffer split (R183) -/

/-- `PUNMARSHAL` answers what `unmarshal_packet()` returns (R183). -/
theorem execPunmarshal_of_unmarshalPacket {s t : State} {st : Status} {v : Word} (h : unmarshalPacket s = ((st, v), t)) :
    exec .punmarshal s = .next (t.respond st v) := by
  rw [exec, execPunmarshal, h]

/-- Settles O28: the two lengths are tested first, then the magic of the staging header; a success copies the rest of `RXBUF`. -/
theorem punmarshalSplitsOrRejects : Obligations.PunmarshalSplitsOrRejects := by
  intro s
  refine ⟨.of_wf rfl rfl rfl rfl rfl,
    fun h => execPunmarshal_of_unmarshalPacket (unmarshalPacket_short s h),
    fun h => execPunmarshal_of_unmarshalPacket (unmarshalPacket_oversize s h),
    fun h28 h1464 => ⟨s.stagedHeader, stagedHeader_imageIn s,
      fun hm => execPunmarshal_of_unmarshalPacket (unmarshalPacket_badMagic s h28 h1464 hm),
      fun hm => ⟨_, execPunmarshal_of_unmarshalPacket (unmarshalPacket_ok s h28 h1464 hm), ?_, ?_, rfl⟩⟩⟩
  · exact Memory.read_write_readBytes s.rpmem s.rxbuf 28 _
  · exact toNat_ofNat_length (by omega)

/-! ### A flat packet in the receive buffer (R182)

`s` is the block that composed the packet, `u` the one that holds its flat bytes. -/

section
variable {s u : State} (hflat : Memory.readBytes u.rxbuf 0 u.rxlen.toNat = s.flatPacket)
include hflat

theorem rxlen_of_flatPacket : u.rxlen.toNat = 28 + s.tpktLen.toNat := by
  simpa using congrArg List.length hflat

/-- The cut after 28 bytes gives back the packet's two parts. -/
theorem parts_of_flatPacket :
    Memory.readBytes u.rxbuf 0 28 = encHeader s.h1 ∧ Memory.readBytes u.rxbuf 28 s.tpktLen.toNat = s.payload := by
  rw [rxlen_of_flatPacket hflat, Memory.readBytes_add, Nat.zero_add] at hflat
  exact List.append_inj hflat (by simp)

theorem stagedHeader_of_flatPacket : u.stagedHeader = s.h1 := by
  rw [State.stagedHeader, Config.headerSize, (parts_of_flatPacket hflat).1, decHeader_encHeader]

variable (hlen : s.tpktLen.toNat ≤ 1436)
include hlen

/-- A packet with the magic constant is taken, header and payload (R182). -/
theorem unmarshalPacket_of_flatPacket (hm : s.h1.magic = u.cfg.magic) :
    unmarshalPacket u =
      ((.ok, BitVec.ofNat 32 s.tpktLen.toNat),
        { u with
          h2 := s.h1
          rpktLen := BitVec.ofNat 11 s.tpktLen.toNat
          rpmem := Memory.write u.rpmem 0 s.payload
          rpktValid := true }) := by
  have hrx := rxlen_of_flatPacket hflat
  have hhead := stagedHeader_of_flatPacket hflat
  rw [unmarshalPacket_ok u (by omega) (by omega) (by rw [hhead, hm]), hhead, hrx, Nat.add_sub_cancel_left,
    (parts_of_flatPacket hflat).2]

/-- A packet with another magic is rejected with it (R182). -/
theorem unmarshalPacket_badMagic_of_flatPacket (hm : s.h1.magic ≠ u.cfg.magic) :
    unmarshalPacket u = ((.protoBadMagic, s.h1.magic), { u with rpktValid := false }) := by
  have hrx := rxlen_of_flatPacket hflat
  have hhead := stagedHeader_of_flatPacket hflat
  rw [unmarshalPacket_badMagic u (by omega) (by omega) (by rwa [hhead]), hhead]

end

/-- A payload copied into `RPMEM` (R183). -/
theorem State.read_write_payload (s : State) (m : Memory) {i : Nat} (h : i < s.tpktLen.toNat) :
    Memory.read (Memory.write m 0 s.payload) i = Memory.read s.tpmem i := by
  rw [State.payload, Memory.read_write_readBytes, if_pos h, Nat.zero_add]

/-- A buffer that holds the composed bytes of `TXBUF` holds the flat packet. -/
theorem readBytes_of_copied_txbuf {s : State} {m : Memory} {n : Nat} (hn : n = 28 + s.tpktLen.toNat)
    (hcopy : ∀ i < n, Memory.read m i = Memory.read (s.compose s.flatPacket).txbuf i) :
    Memory.readBytes m 0 n = s.flatPacket := by
  have hcut : Memory.readBytes m 0 n = Memory.readBytes (s.compose s.flatPacket).txbuf 0 n :=
    List.map_congr_left fun i hi => by simpa using hcopy i (List.mem_range.mp hi)
  rw [hcut, hn, ← s.length_flatPacket, State.compose_txbuf, Memory.readBytes_write]

/-- Settles O29: the copied buffer holds the flat packet, and a flat packet splits into the header and payload it was made of. -/
theorem marshalledPacketRoundTrips : Obligations.MarshalledPacketRoundTrips := by
  intro s hv hlen
  refine ⟨_, execPmarshal_of_le hv hlen, fun u hcfg hrx hcopy => ?_⟩
  rw [← hrx] at hcopy
  have hflat : Memory.readBytes u.rxbuf 0 u.rxlen.toNat = s.flatPacket :=
    readBytes_of_copied_txbuf (hrx ▸ State.txlen_compose_flatPacket hlen) hcopy
  rw [← hcfg]
  exact ⟨fun hm => ⟨_, _, execPunmarshal_of_unmarshalPacket (unmarshalPacket_of_flatPacket hflat hlen hm),
      rfl, rfl, rfl, toNat_ofNat_length (by omega), fun i hi => s.read_write_payload u.rpmem hi⟩,
    fun hm => execPunmarshal_of_unmarshalPacket (unmarshalPacket_badMagic_of_flatPacket hflat hlen hm)⟩

/-! ### From one block to another (R191, R196, R199) -/

/-- A `SEND` that passes its four tests writes the datagram (R191). -/
theorem execSend_of_destination {s : State} {addr : Option Word} {dest : Word} (hopen : s.epOpen = true)
    (hv : s.tpktValid = true) (hlen : s.tpktLen.toNat ≤ 1436) (hdest : s.destination addr = some dest) :
    exec (.send addr) s = .next (sendTo dest s) := by
  have h : ¬ 1436 < s.tpktLen.toNat := not_lt.mpr hlen
  simp [exec, execSend, hopen, hv, h, hdest]

/-- The two forms of `SEND` that have a destination (R191). -/
theorem destination_eq_some {s : State} {addr : Option Word} {dest : Word}
    (h : addr = some dest ∨ (addr = none ∧ s.epHasRemote = true ∧ dest = s.epRemote)) : s.destination addr = some dest := by
  obtain rfl | ⟨rfl, hremote, rfl⟩ := h
  · rfl
  · exact if_pos hremote

/-- A datagram of legal size in `RXBUF` with its length in `RXLEN` (R196). -/
def State.fillRxbuf (s : State) (bytes : List Byte) : State :=
  { s with rxbuf := Memory.write s.rxbuf 0 bytes, rxlen := BitVec.ofNat 11 bytes.length }

/-- A delivery of a legal size decodes the datagram and completes with what the decode returns (R196). -/
theorem netDeliver_of_unmarshalPacket {s t : State} {bytes : List Byte} {st : Status} {v : Word} (h0 : bytes ≠ [])
    (h1464 : bytes.length ≤ 1464) (h : unmarshalPacket (s.fillRxbuf bytes) = ((st, v), t)) (src : Word) :
    netDeliver bytes src s = { t with raddr := src, raddrValid := true }.rxComplete st v := by
  have hpos := List.length_pos_iff.mpr h0
  have hmin : min bytes.length Config.rxbufSize = bytes.length := min_eq_left (by simp; omega)
  have htake : bytes.take Config.rxbufSize = bytes := List.take_of_length_le (by simp; omega)
  rw [State.fillRxbuf] at h
  simp only [netDeliver, hmin, htake, if_neg hpos.ne', if_neg (not_lt.mpr h1464 : ¬ bytes.length > Config.maxPacket), h]

/-- The step of a delivery to a pending receive (R72, R196). -/
theorem step_of_deliver {s : State} (h : s.epRxPending = true) (bytes : List Byte) (src : Word) (rest : List Input) :
    step { s with inputs := .deliver bytes src :: rest } = .next (netDeliver bytes src { s with inputs := rest }) :=
  if_pos h

/-- A delivered flat packet is in `RXBUF` whole. -/
theorem readBytes_fillRxbuf_flatPacket (s a : State) (hlen : s.tpktLen.toNat ≤ 1436) :
    Memory.readBytes (a.fillRxbuf s.flatPacket).rxbuf 0 (a.fillRxbuf s.flatPacket).rxlen.toNat = s.flatPacket := by
  have hrx : (a.fillRxbuf s.flatPacket).rxlen.toNat = s.flatPacket.length :=
    toNat_ofNat_length (by rw [s.length_flatPacket]; omega)
  rw [hrx]
  exact Memory.readBytes_write a.rxbuf 0 s.flatPacket

/-- Settles O42: the datagram offered is the flat packet, and its delivery decodes it as `PUNMARSHAL` would. -/
theorem loopbackDeliversThePacket : Obligations.LoopbackDeliversThePacket := by
  intro a b addr dest src rest hcfg hopen hv hlen hm hpending hdest
  obtain ⟨st, v, hsend, -⟩ := sendTo_effect dest b
  have hsize := b.length_flatPacket
  have hsplit := unmarshalPacket_of_flatPacket (readBytes_fillRxbuf_flatPacket b { a with inputs := rest } hlen) hlen
    (hm.trans (congrArg Config.magic hcfg.symm))
  refine ⟨_, ⟨b.flatPacket, dest⟩, execSend_of_destination hopen hv hlen (destination_eq_some hdest), ?_, rfl, _,
    step_of_deliver hpending _ src rest, ?_⟩
  · rw [hsend]
    rfl
  · rw [netDeliver_of_unmarshalPacket (List.ne_nil_of_length_pos (by omega)) (by omega) hsplit src]
    exact ⟨rfl, rfl, rfl, toNat_ofNat_length (by omega), fun i hi => b.read_write_payload a.rpmem hi, rfl, rfl, rfl, rfl⟩

end Sys2Proof.Machine
end

section
/-! The statements of the spec's packetizer chapter: the endpoint opened and closed (R190, R195), a datagram sent (R191, R192),
a receive started (R193), and its completion by the network (R194, R196, R197). -/

namespace Sys2Proof.Machine

/-! ### Strings at the start of a space, and small numbers in a register -/

/-- A string written at the start of a space, over its old bytes. -/
theorem Memory.read_write_start (m : Memory) (bs : List Byte) (i : Nat) :
    Memory.read (Memory.write m 0 bs) i = if i < bs.length then bs.getD i 0 else Memory.read m i := by
  simp [Memory.read_write]

/-- A length of at most `RXBUF_SIZE` fits `RXLEN`, a response value and an information value (R35, R112, R114). -/
theorem toNat_ofNat_of_le_rxbufSize {w n : Nat} (hw : 11 ≤ w) (h : n ≤ 1465) : (BitVec.ofNat w n).toNat = n := by
  have hn : n < 2 ^ w := calc
    n < 2 ^ 11 := by omega
    _ ≤ 2 ^ w := Nat.pow_le_pow_right (by decide) hw
  rw [BitVec.toNat_ofNat, Nat.mod_eq_of_lt hn]

/-! ### The endpoint opened (R190) -/

section
variable (r : Option Word) {s : State}

theorem execEpopen_of_open (h : s.epOpen = true) : exec (.epopen r) s = .next (s.respond .valIllegal 0) :=
  congrArg Host.Outcome.next (if_pos h)

variable (h : s.epOpen = false)
include h

theorem execEpopen_of_openFails (hok : s.env.openOk = false) : exec (.epopen r) s = .next (s.respond .trOpenFail 0) :=
  congrArg Host.Outcome.next ((if_neg (by simp [h])).trans (if_pos hok))

theorem execEpopen_of_opens (hok : s.env.openOk = true) :
    exec (.epopen r) s =
      .next ({ s with epOpen := true, epHasRemote := r.isSome, epRemote := r.getD 0 }.respond .ok 0) :=
  congrArg Host.Outcome.next ((if_neg (by simp [h])).trans (if_neg (by simp [hok])))

end

/-- Settles O31: an open endpoint is tested first, then the environment's answer; a success associates the remote, if any. -/
theorem epopenOpensAClosedEndpoint : Obligations.EpopenOpensAClosedEndpoint := by
  intro r s
  refine ⟨.of_wf rfl rfl rfl rfl rfl, fun x => .of_wf rfl rfl rfl rfl rfl, execEpopen_of_open r, execEpopen_of_openFails r,
    fun h hok => ⟨?_, ?_⟩⟩
  · rintro rfl
    exact execEpopen_of_opens none h hok
  · rintro x rfl
    exact execEpopen_of_opens (some x) h hok

/-! ### A datagram sent (R191, R192) -/

section
variable (addr : Option Word) {s : State}

theorem execSend_of_closed (hopen : s.epOpen = false) : exec (.send addr) s = .next (s.respond .trClosed 0) :=
  congrArg Host.Outcome.next (if_pos hopen)

variable (hopen : s.epOpen = true)
include hopen

theorem execSend_of_nil (hv : s.tpktValid = false) : exec (.send addr) s = .next (s.respond .valNilPacket 0) :=
  congrArg Host.Outcome.next ((if_neg (by simp [hopen])).trans (if_pos hv))

variable (hv : s.tpktValid = true)
include hv

theorem execSend_of_gt (h : 1436 < s.tpktLen.toNat) :
    exec (.send addr) s = .next (s.respond .valPayloadTooLarge (s.tpktLen.setWidth 32)) :=
  congrArg Host.Outcome.next ((if_neg (by simp [hopen])).trans ((if_neg (by simp [hv])).trans (if_pos h)))

theorem execSend_of_noDestination (hlen : s.tpktLen.toNat ≤ 1436) (hdest : s.destination addr = none) :
    exec (.send addr) s = .next (s.respond .valNoDest 0) := by
  have h : ¬ 1436 < s.tpktLen.toNat := not_lt.mpr hlen
  simp [exec, execSend, hopen, hv, h, hdest]

end

/-- The one form of `SEND` without a destination (R191). -/
theorem destination_eq_none {s : State} (h : s.epHasRemote = false) : s.destination none = none :=
  if_neg (by simp [h])

/-- Settles O32: the tests in their order, then the flat packet is the datagram and the environment's answer the response. -/
theorem sendChecksThenOffersOneDatagram : Obligations.SendChecksThenOffersOneDatagram := by
  intro addr s
  refine ⟨.of_wf rfl rfl rfl rfl rfl, fun x => .of_wf rfl rfl rfl rfl rfl, execSend_of_closed addr, execSend_of_nil addr,
    execSend_of_gt addr, fun hopen hv hlen => ⟨?_, fun dest hdest => ?_⟩⟩
  · rintro rfl hremote
    exact execSend_of_noDestination none hopen hv hlen (destination_eq_none hremote)
  · obtain ⟨st, v, hsend, hanswer⟩ := sendTo_effect dest s
    refine ⟨_, s.flatPacket, st, v,
      (execSend_of_destination hopen hv hlen (destination_eq_some hdest)).trans (congrArg _ hsend), s.length_flatPacket,
      fun i hi => s.getD_flatPacket hi, fun i => ?_, State.txlen_compose_flatPacket hlen, rfl, ?_⟩
    · rw [← s.length_flatPacket]
      exact Memory.read_write_start s.txbuf s.flatPacket i
    · obtain ⟨herr, rfl, rfl⟩ | ⟨herr, hshort, rfl, rfl⟩ | ⟨herr, hall, rfl, rfl⟩ := hanswer <;> rw [herr]
      · exact ⟨fun _ => ⟨rfl, rfl⟩, nofun, nofun⟩
      · exact ⟨nofun, fun _ _ => ⟨rfl, toNat_ofNat_of_le_rxbufSize (by decide) (by omega)⟩, fun _ _ => by omega⟩
      · exact ⟨nofun, fun _ _ => by omega, fun _ _ => ⟨rfl, toNat_ofNat_of_le_rxbufSize (by decide) (by omega)⟩⟩

/-! ### What a step offers (R192) -/

/-- Only `SEND` offers a datagram, one of 28 to 1464 bytes. -/
theorem CommandEffect.offered {i : Instr} {s t : State} (h : CommandEffect i s t) :
    t.offered = s.offered ∨
    ∃ addr d, i = .send addr ∧ t.offered = s.offered ++ [d] ∧ 28 ≤ d.bytes.length ∧ d.bytes.length ≤ 1464 := by
  cases h with
  | sent addr _ dest hlen =>
    obtain ⟨st, v, e, -⟩ := sendTo_effect dest s
    have hsize := s.length_flatPacket
    refine .inr ⟨addr, ⟨s.flatPacket, dest⟩, rfl, ?_, ?_, ?_⟩
    · rw [e, State.respond_offered, State.offer_offered, State.compose_offered]
    · exact hsize ▸ Nat.le_add_right 28 _
    · exact hsize ▸ Nat.add_le_add_left hlen 28
  | split =>
    left
    obtain ⟨st, v, e, -⟩ | ⟨v, h, len, bs, e, -, -⟩ := unmarshalPacket_effect s <;> rw [e] <;> rfl
  | register r v _ u c hu =>
    left
    obtain ⟨-, rfl⟩ | ⟨-, rfl⟩ | ⟨-, rfl⟩ | ⟨-, -, rfl⟩ := writeReg_effect s u c v hu <;> rfl
  | answer | writeBank | forget | name | header | newPacket | packet | opened | wait | closed | closedPending | store =>
    left
    simp

theorem netDeliver_offered (bytes : List Byte) (src : Word) (s : State) : (netDeliver bytes src s).offered = s.offered := by
  obtain ⟨bs, len, st, v, ra, rv, d, -, -, -, ⟨pv, e⟩ | ⟨h, pl, p, -, -, e⟩⟩ := netDeliver_effect bytes src s <;> rw [e]

/-- Settles O39: a command's offers are those of its effect, and no other step offers. -/
theorem onlySendOffersDatagrams : Obligations.OnlySendOffersDatagrams := by
  intro s t h
  obtain ⟨-, rfl⟩ | ⟨w, env, rest, i, hin, hd, he⟩ | ⟨w, env, rest, e, -, -, rfl⟩ | ⟨bytes, src, rest, -, -, rfl⟩ |
    ⟨closed, rest, -, -, rfl⟩ := step_cases s t h
  · exact .inl rfl
  · refine (CommandEffect.of_exec he).offered.imp_right ?_
    rintro ⟨addr, d, rfl, hoffer⟩
    exact ⟨w, env, rest, addr, d, hin, hd, hoffer⟩
  · exact .inl rfl
  · exact .inl (netDeliver_offered bytes src { s with inputs := rest })
  · exact .inl rfl

/-! ### A receive started (R193) -/

section
variable {s : State}

theorem execRecv_of_closed (h : s.epOpen = false) : exec .recv s = .next (s.respond .trClosed 0) :=
  congrArg Host.Outcome.next (if_pos h)

variable (h : s.epOpen = true)
include h

theorem execRecv_of_pending (hp : s.epRxPending = true) : exec .recv s = .next (s.respond .valIllegal 0) :=
  congrArg Host.Outcome.next ((if_neg (by simp [h])).trans (if_pos hp))

theorem execRecv_of_idle (hp : s.epRxPending = false) :
    exec .recv s = .next ({ s with epRxPending := true, epRxDone := false }.respond .ok 0) :=
  congrArg Host.Outcome.next ((if_neg (by simp [h])).trans (if_neg (by simp [hp])))

end

/-- Settles O33: the endpoint is tested before the pending receive. -/
theorem recvStartsOneReceive : Obligations.RecvStartsOneReceive := fun _ =>
  ⟨.of_wf rfl rfl rfl rfl rfl, execRecv_of_closed, execRecv_of_pending, execRecv_of_idle⟩

/-! ### A receive failed (R194, R195, R197) -/

/-- A receive that fails leaves the bytes of `RXBUF` unspecified and nothing beyond them (R194). -/
theorem rxFail_forgets_rxbuf_only (s : State) (st : Status) :
    ∃ buf d, (∀ i, 1465 ≤ i → Memory.read buf i = Memory.read s.rxbuf i) ∧
      s.rxFail st = { s with
        epRxPending := false, epRxDone := true, rxStatus := st.code, rxInfo := 0, rxbuf := buf, rxlen := 0
        rpktValid := false, raddrValid := false, draws := d } := by
  obtain ⟨bs, d, hlen, e⟩ := rxFail_effect s st
  exact ⟨_, d, fun i hi => by rw [Memory.read_write_start, if_neg (by omega)], e⟩

section
variable {s : State} (h : s.epOpen = true)
include h

theorem execClose_of_idle (hp : s.epRxPending = false) :
    exec .close s = .next ({ s with epOpen := false, epHasRemote := false, epRemote := 0 }.respond .ok 0) := by
  simp [exec, execClose, h, hp]

theorem execClose_of_pending (hp : s.epRxPending = true) :
    exec .close s =
      .next (({ s with epOpen := false, epHasRemote := false, epRemote := 0 }.rxFail .trClosedDuringRead).respond .ok 0) := by
  simp [exec, execClose, h, hp]

end

/-- Settles O34: a `CLOSE` that ends a receive is the endpoint cleared, then the receive failed. -/
theorem closeCompletesAPendingReceive : Obligations.CloseCompletesAPendingReceive := by
  intro s
  refine ⟨.of_wf rfl rfl rfl rfl rfl, execClose_of_closed, execClose_of_idle, fun h hp => ?_⟩
  obtain ⟨buf, d, hbuf, e⟩ :=
    rxFail_forgets_rxbuf_only { s with epOpen := false, epHasRemote := false, epRemote := 0 } .trClosedDuringRead
  refine ⟨buf, d, hbuf, ?_⟩
  rw [execClose_of_pending h hp, e]
  rfl

/-- A step takes the next input (R44). -/
theorem step_of_inputs {s : State} {i : Input} {rest : List Input} (h : s.inputs = i :: rest) :
    step s = takeInput i { s with inputs := rest } := by
  rw [step, h]

/-- Settles O37: the event, enabled, is the receive failed with the status of its flag. -/
theorem readErrorFailsThePendingReceive : Obligations.ReadErrorFailsThePendingReceive := by
  intro s closed rest hin hp
  obtain ⟨buf, d, hbuf, e⟩ :=
    rxFail_forgets_rxbuf_only { s with inputs := rest } (if closed then .trClosedDuringRead else .trRead)
  refine ⟨buf, d, hbuf, ?_⟩
  rw [step_of_inputs hin, takeInput, if_pos hp, netReadError, e]
  cases closed <;> rfl

/-! ### A receive completed by a datagram (R194, R196) -/

/-- The part of a datagram that `RXBUF` keeps (R196). -/
def keptBytes (bytes : List Byte) : List Byte := bytes.take 1465

theorem keptBytes_of_le {bytes : List Byte} (h : bytes.length ≤ 1465) : keptBytes bytes = bytes :=
  List.take_of_length_le h

@[simp] theorem length_keptBytes (bytes : List Byte) : (keptBytes bytes).length = min bytes.length 1465 := by
  rw [keptBytes, List.length_take, min_comm]

theorem getD_keptBytes (bytes : List Byte) {i : Nat} (h : i < 1465) : (keptBytes bytes).getD i 0 = bytes.getD i 0 := by
  simp [keptBytes, List.getElem?_take_of_lt h]

theorem toNat_rxlen_fillRxbuf (s : State) {bytes : List Byte} (h : bytes.length ≤ 1465) :
    (s.fillRxbuf bytes).rxlen.toNat = bytes.length :=
  toNat_ofNat_of_le_rxbufSize (by decide) h

theorem read_fillRxbuf (s : State) (bytes : List Byte) (i : Nat) :
    Memory.read (s.fillRxbuf bytes).rxbuf i = if i < bytes.length then bytes.getD i 0 else Memory.read s.rxbuf i :=
  Memory.read_write_start s.rxbuf bytes i

theorem toNat_rxlen_fillRxbuf_keptBytes (s : State) (bytes : List Byte) :
    (s.fillRxbuf (keptBytes bytes)).rxlen.toNat = min bytes.length 1465 := by
  rw [toNat_rxlen_fillRxbuf s (by simp), length_keptBytes]

theorem read_fillRxbuf_keptBytes (s : State) (bytes : List Byte) (i : Nat) :
    Memory.read (s.fillRxbuf (keptBytes bytes)).rxbuf i =
      if i < min bytes.length 1465 then bytes.getD i 0 else Memory.read s.rxbuf i := by
  rw [read_fillRxbuf, length_keptBytes]
  split_ifs with hi
  · exact getD_keptBytes bytes (by omega)
  · rfl

section
variable (src : Word) (s : State)

/-- An empty datagram completes with `TR_EMPTY`, no packet and the sender unspecified (R196). -/
theorem netDeliver_empty :
    netDeliver [] src s = ({ s.fillRxbuf [] with rpktValid := false }.forgetSender).rxComplete .trEmpty 0 := rfl

/-- A datagram beyond 1464 bytes completes with `TR_OVERSIZE` and 1465, no packet and the sender unspecified (R196). -/
theorem netDeliver_oversize {bytes : List Byte} (h : 1464 < bytes.length) :
    netDeliver bytes src s =
      ({ s.fillRxbuf (keptBytes bytes) with rpktValid := false }.forgetSender).rxComplete .trOversize 1465 := by
  have hmin : min bytes.length Config.rxbufSize = 1465 := min_eq_right h
  rw [State.fillRxbuf, length_keptBytes, min_eq_right (show 1465 ≤ bytes.length from h)]
  simp only [netDeliver, hmin]
  rfl

section
variable {bytes : List Byte} (hpos : 1 ≤ bytes.length)
include hpos

/-- A datagram of a legal size is decoded, and its sender is recorded whatever the decode returns (R196). -/
theorem netDeliver_legal (hle : bytes.length ≤ 1464) :
    netDeliver bytes src s =
      { (unmarshalPacket (s.fillRxbuf bytes)).2 with raddr := src, raddrValid := true }.rxComplete
        (unmarshalPacket (s.fillRxbuf bytes)).1.1 (unmarshalPacket (s.fillRxbuf bytes)).1.2 :=
  netDeliver_of_unmarshalPacket (List.ne_nil_of_length_pos hpos) hle rfl src

/-- A datagram shorter than a header completes with `PROTO_SHORT` and its length (R183, R196). -/
theorem netDeliver_short (hlt : bytes.length < 28) :
    netDeliver bytes src s =
      { s.fillRxbuf bytes with rpktValid := false, raddr := src, raddrValid := true }.rxComplete .protoShort
        ((s.fillRxbuf bytes).rxlen.setWidth 32) := by
  have hrx := toNat_rxlen_fillRxbuf s (bytes := bytes) (by omega)
  rw [netDeliver_legal src s hpos (by omega), unmarshalPacket_short _ (by omega)]

end

section
variable {bytes : List Byte} (h28 : 28 ≤ bytes.length) (hle : bytes.length ≤ 1464)
include h28 hle

/-- A datagram with another magic completes with `PROTO_BAD_MAGIC` and the magic found (R183, R196). -/
theorem netDeliver_badMagic (hm : (s.fillRxbuf bytes).stagedHeader.magic ≠ s.cfg.magic) :
    netDeliver bytes src s =
      { s.fillRxbuf bytes with rpktValid := false, raddr := src, raddrValid := true }.rxComplete .protoBadMagic
        (s.fillRxbuf bytes).stagedHeader.magic := by
  have hrx := toNat_rxlen_fillRxbuf s (bytes := bytes) (by omega)
  rw [netDeliver_legal src s (by omega) hle, unmarshalPacket_badMagic _ (by omega) (by omega) hm]

/-- A datagram with the magic constant completes with its packet (R183, R196). -/
theorem netDeliver_packet (hm : (s.fillRxbuf bytes).stagedHeader.magic = s.cfg.magic) :
    netDeliver bytes src s =
      { s.fillRxbuf bytes with
        h2 := (s.fillRxbuf bytes).stagedHeader
        rpktLen := BitVec.ofNat 11 (bytes.length - 28)
        rpmem := Memory.write s.rpmem 0 (Memory.readBytes (s.fillRxbuf bytes).rxbuf 28 (bytes.length - 28))
        rpktValid := true
        raddr := src
        raddrValid := true }.rxComplete .ok (BitVec.ofNat 32 (bytes.length - 28)) := by
  have hrx := toNat_rxlen_fillRxbuf s (bytes := bytes) (by omega)
  rw [netDeliver_legal src s (by omega) hle, unmarshalPacket_ok _ (by omega) (by omega) hm, hrx]
  rfl

/-- The payload copied from a datagram in `RXBUF` is the datagram after its header (R183). -/
theorem read_payload_of_datagram (i : Nat) :
    Memory.read (Memory.write s.rpmem 0 (Memory.readBytes (s.fillRxbuf bytes).rxbuf 28 (bytes.length - 28))) i =
      if i < bytes.length - 28 then bytes.getD (28 + i) 0 else Memory.read s.rpmem i := by
  rw [Memory.read_write_readBytes, read_fillRxbuf]
  by_cases hi : i < bytes.length - 28
  · rw [if_pos hi, if_pos hi, if_pos (by omega)]
  · rw [if_neg hi, if_neg hi]

/-- The header staged from a datagram in `RXBUF` has the datagram's first 28 bytes as its image (R183). -/
theorem stagedHeader_of_datagram {i : Nat} (hi : i < 28) :
    (s.fillRxbuf bytes).stagedHeader.wireByte i = bytes.getD i 0 := by
  rw [stagedHeader_imageIn _ i hi, read_fillRxbuf, if_pos (by omega)]

end

/-- What every delivery leaves of the state (R194, R196). -/
structure DeliveredInto (s t : State) (bytes : List Byte) : Prop where
  /-- The bytes kept are in `RXBUF`. -/
  rxbuf_eq : t.rxbuf = (s.fillRxbuf (keptBytes bytes)).rxbuf
  /-- Their number is in `RXLEN`. -/
  rxlen_eq : t.rxlen = (s.fillRxbuf (keptBytes bytes)).rxlen
  /-- The receive is complete, and only its own registers have changed. -/
  frame : t = { s with
    rxbuf := t.rxbuf, rxlen := t.rxlen, rpktValid := t.rpktValid, rpktLen := t.rpktLen, rpmem := t.rpmem, h2 := t.h2
    raddr := t.raddr, raddrValid := t.raddrValid, rxStatus := t.rxStatus, rxInfo := t.rxInfo, epRxPending := false
    epRxDone := true, draws := t.draws }
  /-- The receive packet is whole, or only invalid. -/
  packet_kept : t.rpktValid = false → t.h2 = s.h2 ∧ t.rpktLen = s.rpktLen ∧ t.rpmem = s.rpmem

theorem netDeliver_deliveredInto (bytes : List Byte) : DeliveredInto s (netDeliver bytes src s) bytes := by
  rcases Nat.eq_zero_or_pos bytes.length with h0 | hpos
  · rw [List.eq_nil_of_length_eq_zero h0, netDeliver_empty]
    exact ⟨rfl, rfl, rfl, fun _ => ⟨rfl, rfl, rfl⟩⟩
  by_cases hle : bytes.length ≤ 1464
  · rw [netDeliver_legal src s hpos hle]
    have hfill : s.fillRxbuf bytes = s.fillRxbuf (keptBytes bytes) := by rw [keptBytes_of_le (by omega)]
    have hrxbuf := congrArg State.rxbuf hfill
    have hrxlen := congrArg State.rxlen hfill
    obtain ⟨st, v, e, -⟩ | ⟨v, h, len, bs, e, -, -⟩ := unmarshalPacket_effect (s.fillRxbuf bytes) <;> rw [e]
    · exact ⟨hrxbuf, hrxlen, rfl, fun _ => ⟨rfl, rfl, rfl⟩⟩
    · exact ⟨hrxbuf, hrxlen, rfl, nofun⟩
  · rw [netDeliver_oversize src s (not_le.mp hle)]
    exact ⟨rfl, rfl, rfl, fun _ => ⟨rfl, rfl, rfl⟩⟩

end

/-- Settles O36: what every delivery leaves is the frame; then one case a size, and two for the magic of a whole header. -/
theorem deliverCompletesThePendingReceive : Obligations.DeliverCompletesThePendingReceive := by
  intro s bytes src rest hin hp
  have hstep : step s = .next (netDeliver bytes src { s with inputs := rest }) := by
    rw [step_of_inputs hin, takeInput, if_pos hp]
  obtain ⟨hrxbuf, hrxlen, hframe, hkept⟩ := netDeliver_deliveredInto src { s with inputs := rest } bytes
  refine ⟨_, _, hstep, rfl, ?_, fun i => ?_, hframe, hkept, fun hn => ?_, fun hn => ?_, fun h1 hle => ?_, fun h1 hlt => ?_,
    fun h28 hle => ?_⟩
  · rw [hrxlen, toNat_rxlen_fillRxbuf_keptBytes]
  · rw [hrxbuf, read_fillRxbuf_keptBytes]
  · rw [List.eq_nil_of_length_eq_zero (show bytes.length = 0 by omega), netDeliver_empty]
    exact ⟨rfl, rfl, rfl⟩
  · rw [netDeliver_oversize src _ (by omega)]
    exact ⟨rfl, rfl, rfl⟩
  · rw [netDeliver_legal src _ (by omega) (by omega)]
    exact ⟨rfl, rfl⟩
  · have hrx := toNat_rxlen_fillRxbuf { s with inputs := rest } (bytes := bytes) (by omega)
    rw [netDeliver_short src _ (by omega) (by omega)]
    refine ⟨rfl, ?_, rfl⟩
    rw [State.rxComplete_rxInfo, BitVec.toNat_setWidth]
    omega
  · refine ⟨({ s with inputs := rest }.fillRxbuf bytes).stagedHeader,
      fun i => stagedHeader_of_datagram _ (by omega) (by omega), fun hm => ?_, fun hm => ?_⟩
    · rw [netDeliver_badMagic src _ (by omega) (by omega) hm]
      exact ⟨rfl, rfl, rfl⟩
    · have hmin : min bytes.length 1465 = bytes.length := by omega
      rw [netDeliver_packet src _ (by omega) (by omega) hm, hmin]
      exact ⟨rfl, toNat_ofNat_of_le_rxbufSize (by decide) (by omega), rfl, rfl,
        toNat_ofNat_of_le_rxbufSize (by decide) (by omega), read_payload_of_datagram _ (by omega) (by omega)⟩

end Sys2Proof.Machine
end

section
/-! The statements of the spec's host access chapter: `CRD` and `CWR` on the control registers (R40, R210, R211), `LDB` and `STB` on
the byte spaces (R62, R212, R213), and that a pending receive keeps its buffer from the host (R214, R257). -/

namespace Sys2Proof.Machine

/-! ### A pending receive (R214, R257) -/

/-- The receive buffer, its length and the wait hold the same in two states. -/
def SameReceive (s t : State) : Prop :=
  t.rxbuf = s.rxbuf ∧ t.rxlen = s.rxlen ∧ t.epRxPending = s.epRxPending

theorem sendTo_sameReceive (dest : Word) (s : State) : SameReceive s (sendTo dest s) := by
  obtain ⟨st, v, e, -⟩ := sendTo_effect dest s
  rw [e]
  exact ⟨rfl, rfl, rfl⟩

theorem unmarshalPacket_sameReceive (s : State) : SameReceive s (unmarshalPacket s).2 := by
  obtain ⟨st, v, e, -⟩ | ⟨v, h, len, bs, e, -, -⟩ := unmarshalPacket_effect s <;> rw [e] <;> exact ⟨rfl, rfl, rfl⟩

section
variable {s : State} (hp : s.epRxPending = true)
include hp

/-- `RXLEN` is writable only while no receive is pending (R211). -/
theorem writeReg_sameReceive {t : State} {c : CReg} {v : Word} (h : s.writeReg c v = some t) : SameReceive s t := by
  obtain ⟨-, rfl⟩ | ⟨-, rfl⟩ | ⟨-, rfl⟩ | ⟨-, hidle, -⟩ := writeReg_effect s t c v h
  · exact ⟨rfl, rfl, rfl⟩
  · exact ⟨rfl, rfl, rfl⟩
  · exact ⟨rfl, rfl, rfl⟩
  · exact absurd (hp.symm.trans hidle) (by decide)

/-- `RXBUF` is writable only while no receive is pending (R213). -/
theorem hostStore_sameReceive {n : Byte} {p : Space} (hn : spaceOf n = some p) (hw : s.hostMayWrite p = true) (m : Memory) :
    SameReceive s (s.setSpace p m) := by
  obtain ⟨rfl, -⟩ | ⟨rfl, -⟩ | ⟨-, -, hidle⟩ := hostMayWrite_effect s n p hn hw
  · exact ⟨rfl, rfl, rfl⟩
  · exact ⟨rfl, rfl, rfl⟩
  · exact absurd (hp.symm.trans hidle) (by decide)

/-- Every command but `CLOSE` leaves a pending receive. -/
theorem CommandEffect.sameReceive {i : Instr} {t : State} (h : CommandEffect i s t) (hi : i ≠ .close) : SameReceive s t := by
  cases h with
  | closed | closedPending => exact absurd rfl hi
  | wait _ _ hidle => exact absurd (hp.symm.trans hidle) (by decide)
  | split => exact unmarshalPacket_sameReceive s
  | sent a _ dest => exact sendTo_sameReceive dest s
  | register r v _ u c hu => exact writeReg_sameReceive (t := u) hp hu
  | store n j v _ p hn hw => exact hostStore_sameReceive hp hn hw _
  | answer | writeBank | forget | name | header | newPacket | packet | opened => simp [SameReceive]

end

/-- Settles O41: a command but `CLOSE` is a case of its effect; those that could reach the receive are refused while it is
pending. -/
theorem pendingReceiveOwnsItsBuffer : Obligations.PendingReceiveOwnsItsBuffer := by
  intro i s t hp hi h
  obtain ⟨hbuf, hlen, hwait⟩ := (CommandEffect.of_exec h).sameReceive hp hi
  exact ⟨hbuf, hlen, hwait.trans hp⟩

/-! ### The control registers read (R40, R210) -/

/-- The number of a control register (R40). -/
def CReg.number : CReg → Nat
  | .epState => 0x00
  | .epRemote => 0x01
  | .nlen => 0x02
  | .nresLen => 0x03
  | .tpktValid => 0x04
  | .tpktLen => 0x05
  | .rpktValid => 0x06
  | .rpktLen => 0x07
  | .txlen => 0x08
  | .rxlen => 0x09
  | .rxStatus => 0x0A
  | .rxInfo => 0x0B
  | .raddr => 0x0C
  | .raddrValid => 0x0D

theorem cregOf_eq_some_iff (r : Byte) (c : CReg) : cregOf r = some c ↔ r.toNat = c.number := by
  revert r
  cases c <;> decide

theorem cregOf_eq_none : ∀ r : Byte, 0x0D < r.toNat → cregOf r = none := by decide

theorem toNat_bit (b : Bool) : (bit b).toNat = b.toNat := by cases b <;> rfl

/-- The four endpoint flags are packed from bit 0 up (R40). -/
theorem toNat_epState (s : State) :
    s.epState.toNat = s.epOpen.toNat + 2 * s.epHasRemote.toNat + 4 * s.epRxPending.toNat + 8 * s.epRxDone.toNat := by
  have key : ∀ o r p d : Bool, (bit o ||| (bit r <<< 1) ||| (bit p <<< 2) ||| (bit d <<< 3)).toNat =
      o.toNat + 2 * r.toNat + 4 * p.toNat + 8 * d.toNat := by decide
  exact key _ _ _ _

/-- The control registers as numbers, in the order of R40. -/
def State.registerNumbers (s : State) : List Nat :=
  [s.epOpen.toNat + 2 * s.epHasRemote.toNat + 4 * s.epRxPending.toNat + 8 * s.epRxDone.toNat,
   s.epRemote.toNat, s.nlen.toNat, s.nresLen.toNat, s.tpktValid.toNat, s.tpktLen.toNat, s.rpktValid.toNat,
   s.rpktLen.toNat, s.txlen.toNat, s.rxlen.toNat, s.rxStatus.toNat, s.rxInfo.toNat, s.raddr.toNat, s.raddrValid.toNat]

/-- A register reads as its number, zero-extended (R40). -/
theorem toNat_readReg (s : State) (c : CReg) : (s.readReg c).toNat = s.registerNumbers.getD c.number 0 := by
  cases c with
  | epState => exact toNat_epState s
  | tpktValid | rpktValid | raddrValid => exact toNat_bit _
  | epRemote | rxInfo | raddr => rfl
  | nlen | nresLen | tpktLen | rpktLen | txlen | rxlen | rxStatus => exact BitVec.toNat_setWidth_of_le (by decide)

theorem execCrd_of_cregOf_none {r : Byte} (h : cregOf r = none) (s : State) :
    exec (.crd r) s = .next (s.respond .valIllegal 0) := by
  rw [exec, execCrd, h]
  rfl

/-- Settles O43: the numbers up to 0x0D each name a register, and a register reads as the entry of its number. -/
theorem crdReadsEveryRegister : Obligations.CrdReadsEveryRegister := by
  intro r s
  refine ⟨.of_wf rfl rfl rfl rfl rfl, fun hr => execCrd_of_cregOf_none (cregOf_eq_none r hr) s, fun hr => ?_⟩
  obtain ⟨c, hc⟩ := Option.isSome_iff_exists.mp (cregOf_isSome r hr)
  refine ⟨s.readReg c, execCrd_of_cregOf hc s, ?_⟩
  rw [(cregOf_eq_some_iff r c).mp hc]
  exact toNat_readReg s c

/-! ### The control registers written (R40, R211) -/

section
variable {r : Byte} {v : Word} {s : State}

theorem execCwr_of_writeReg {c : CReg} {t : State} (hr : r.toNat = c.number) (h : s.writeReg c v = some t) :
    exec (.cwr r v) s = .next (t.respond .ok 0) := by
  rw [exec, execCwr, (cregOf_eq_some_iff r c).mpr hr, Option.bind_some, h]

theorem execCwr_of_writeReg_none (h : ∀ c : CReg, r.toNat = c.number → s.writeReg c v = none) :
    exec (.cwr r v) s = .next (s.respond .valIllegal 0) := by
  have hnone : ((cregOf r).bind fun c => s.writeReg c v) = none :=
    Option.bind_eq_none_iff.mpr fun c hc => h c ((cregOf_eq_some_iff r c).mp hc)
  rw [exec, execCwr, hnone]
  rfl

end

/-- Settles O44: each writable register takes a value that its width holds; for any other number or value no register accepts the
write. -/
theorem cwrWritesOnlyLegalValues : Obligations.CwrWritesOnlyLegalValues := by
  intro r v s
  refine ⟨.of_wf rfl rfl rfl rfl rfl, fun hr hv => ⟨v.setWidth 7, ?_, ?_⟩, fun hr hv => ⟨v == 1, ?_, ?_⟩,
    fun hr hv => ⟨v.setWidth 12, ?_, ?_⟩, fun hr hv hidle => ⟨v.setWidth 11, ?_, ?_⟩, fun h => ?_⟩
  · bv_omega
  · exact execCwr_of_writeReg (c := .nlen) hr (if_neg (not_lt.mpr hv))
  · obtain rfl | rfl : v = 0 ∨ v = 1 := by bv_omega
    · rfl
    · rfl
  · exact execCwr_of_writeReg (c := .tpktValid) hr (if_neg (not_lt.mpr hv))
  · bv_omega
  · exact execCwr_of_writeReg (c := .tpktLen) hr (if_neg (not_lt.mpr hv))
  · bv_omega
  · exact execCwr_of_writeReg (c := .rxlen) hr (if_neg (by simp [hidle, hv]))
  · refine execCwr_of_writeReg_none fun c hc => ?_
    rw [hc] at h
    cases c with
    | nlen | tpktValid | tpktLen | rxlen => exact if_pos (by simpa [CReg.number] using h)
    | _ => rfl

/-! ### The byte spaces (R62) -/

/-- The number of a byte space (R62). -/
def Space.number : Space → Nat
  | .nbuf => 0
  | .nres => 1
  | .tpmem => 2
  | .rpmem => 3
  | .txbuf => 4
  | .rxbuf => 5

theorem spaceOf_eq_some_iff (n : Byte) (p : Space) : spaceOf n = some p ↔ n.toNat = p.number := by
  revert n
  cases p <;> decide

theorem spaceOf_eq_none_iff : ∀ n : Byte, spaceOf n = none ↔ 6 ≤ n.toNat := by decide

/-- The capacities by number (R62). -/
theorem getD_capacities (p : Space) : [64, 16, 2048, 1436, 1464, 1465].getD p.number 0 = p.capacity := by cases p <;> rfl

/-- The contents by number (R62). -/
theorem getD_contents (s : State) (p : Space) :
    [s.nbuf, s.nres, s.tpmem, s.rpmem, s.txbuf, s.rxbuf].getD p.number [] = s.space p := by
  cases p <;> rfl

/-! ### A byte read (R212) -/

section
variable {n : Byte} {p : Space} {i : Half} (s : State)

theorem execLdb_of_spaceOf_none (h : spaceOf n = none) : exec (.ldb n i) s = .next (s.respond .valIllegal 0) := by
  rw [exec, execLdb, h]
  rfl

theorem execLdb_of_lt (hp : spaceOf n = some p) (hi : i.toNat < p.capacity) :
    exec (.ldb n i) s = .next (s.respond .ok ((Memory.read (s.space p) i.toNat).setWidth 32)) := by
  simp only [exec, execLdb, hp, if_pos hi]

theorem execLdb_of_ge (hp : spaceOf n = some p) (hi : p.capacity ≤ i.toNat) :
    exec (.ldb n i) s = .next (s.respond .valIllegal 0) := by
  simp only [exec, execLdb, hp, if_neg (not_lt.mpr hi), State.refuse_eq]

end

/-- Settles O45: a number beyond the six has no index below its capacity, and each of the six has its space's entries. -/
theorem ldbReadsOneByte : Obligations.LdbReadsOneByte := by
  intro n i s
  refine ⟨.of_wf rfl rfl rfl rfl rfl, ?_⟩
  cases hn : spaceOf n with
  | none =>
    rw [List.getD_eq_default _ _ ((spaceOf_eq_none_iff n).mp hn)]
    exact ⟨nofun, fun _ => execLdb_of_spaceOf_none s hn⟩
  | some p =>
    rw [(spaceOf_eq_some_iff n p).mp hn, getD_capacities, getD_contents]
    exact ⟨fun hi => ⟨_, execLdb_of_lt s hn hi, toNat_zext _⟩, execLdb_of_ge s hn⟩

/-! ### A byte written (R213) -/

theorem Memory.read_write_byte (m : Memory) (i : Nat) (v : Byte) (a : Nat) :
    Memory.read (Memory.write m i [v]) a = if a = i then v else Memory.read m a := by
  rw [Memory.read_write]
  by_cases h : a = i
  · subst h
    simp
  · rw [if_neg h, if_neg (by simp only [List.length_singleton]; omega)]

/-- A store into a space that the host may write takes the byte at its index and no other (R213). -/
theorem execStb_writes_byte {n : Byte} {i : Half} {s : State} (p : Space) (hn : n.toNat = p.number)
    (hw : s.hostMayWrite p = true) (hi : i.toNat < p.capacity) (v : Byte) :
    ∃ m, (∀ a, Memory.read m a = if a = i.toNat then v else Memory.read (s.space p) a) ∧
      exec (.stb n i v) s = .next ((s.setSpace p m).respond .ok 0) :=
  ⟨_, Memory.read_write_byte (s.space p) i.toNat v, execStb_of_mayWrite ((spaceOf_eq_some_iff n p).mpr hn) hw hi v⟩

theorem execStb_of_not_mayWrite {n : Byte} {i : Half} {s : State}
    (h : ∀ p, spaceOf n = some p → s.hostMayWrite p = true → p.capacity ≤ i.toNat) (v : Byte) :
    exec (.stb n i v) s = .next (s.respond .valIllegal 0) := by
  cases hn : spaceOf n with
  | none => simp only [exec, execStb, hn, State.refuse_eq]
  | some p =>
    have hguard : ¬ (s.hostMayWrite p = true ∧ i.toNat < p.capacity) := fun ⟨hw, hi⟩ => absurd (h p hn hw) (not_le.mpr hi)
    simp only [exec, execStb, hn, if_neg hguard, State.refuse_eq]

/-- Settles O46: the spaces that the host may write are those three, each up to its capacity. -/
theorem stbWritesOneByte : Obligations.StbWritesOneByte := by
  intro n i v s
  refine ⟨.of_wf rfl rfl rfl rfl (byteSlot_toNat v), fun hn hi => execStb_writes_byte .nbuf hn rfl hi v,
    fun hn hi => execStb_writes_byte .tpmem hn rfl hi v,
    fun hn hi hidle => execStb_writes_byte .rxbuf hn (by simp [State.hostMayWrite, hidle]) hi v, fun h => ?_⟩
  refine execStb_of_not_mayWrite (fun p hp hw => ?_) v
  obtain ⟨rfl, hn⟩ | ⟨rfl, hn⟩ | ⟨rfl, hn, hidle⟩ := hostMayWrite_effect s n p hp hw
  · simpa [hn, Space.capacity] using h
  · simpa [hn, Space.capacity] using h
  · simpa [hn, hidle, Space.capacity] using h

end Sys2Proof.Machine
end

section
/-! The statements of the spec's exceptions chapter: the state a failing command leaves (R223). -/

namespace Sys2Proof.Machine

/-- What R223 lets a failing command leave, with the response it gives. -/
inductive FailureEffect : Instr → State → State → Response → Prop
  /-- Nothing but the response: every validation failure and refusal, among others. -/
  | unchanged (i : Instr) (s : State) (st : Status) (v : Word) : FailureEffect i s (s.respond st v) ⟨st, v⟩
  /-- The bank `HUNMARSHAL` was decoding into left unspecified. -/
  | forget (k : Bank) (s : State) (v : Word) :
      FailureEffect (.hunmarshal k) s ((s.forgetBank k).respond .protoBadMagic v) ⟨.protoBadMagic, v⟩
  /-- `RPKT.VALID` cleared. -/
  | rejected (s : State) (st : Status) (v : Word) (h : st = .protoShort ∨ st = .protoOversize ∨ st = .protoBadMagic) :
      FailureEffect .punmarshal s ({ s with rpktValid := false }.respond st v) ⟨st, v⟩
  /-- The datagram composed in `TXBUF` and offered. -/
  | written (a : Option Word) (s : State) (dest : Word) (st : Status) (v : Word) (h : st = .trWrite ∨ st = .trShortWrite) :
      FailureEffect (.send a) s (((s.compose s.flatPacket).offer s.flatPacket dest).respond st v) ⟨st, v⟩

section
variable {s u : State} {st : Status} {v : Word} {r : Response}

/-- The response added to an unchanged log is the one given. -/
theorem response_eq_of_respond (hu : u.responses = s.responses) (hr : (u.respond st v).responses = s.responses ++ [r]) :
    r = ⟨st, v⟩ := by
  rw [State.respond_responses, hu] at hr
  exact (List.singleton_inj.mp (List.append_cancel_left hr)).symm

/-- A command that answers `OK` does not fail. -/
theorem not_failure_of_respond_ok {p : Prop} (hu : u.responses = s.responses)
    (hr : (u.respond .ok v).responses = s.responses ++ [r]) (hf : r.status ≠ .ok) : p :=
  absurd (congrArg Response.status (response_eq_of_respond hu hr)) hf

end

/-- A failing command leaves what R223 says, one case an effect: the effects that answer `OK` are no failures. -/
theorem CommandEffect.failureEffect {i : Instr} {s t : State} {r : Response} (h : CommandEffect i s t)
    (hr : t.responses = s.responses ++ [r]) (hf : r.status ≠ .ok) : FailureEffect i s t r := by
  cases h with
  | answer _ _ st v =>
    obtain rfl := response_eq_of_respond rfl hr
    exact .unchanged _ _ _ _
  | forget k =>
    obtain rfl := response_eq_of_respond (State.forgetBank_responses s k) hr
    exact .forget _ _ _
  | split =>
    obtain ⟨st, v, e, hst⟩ | ⟨v, h, len, bs, e, -, -⟩ := unmarshalPacket_effect s <;> rw [e] at hr ⊢
    · obtain rfl := response_eq_of_respond rfl hr
      exact .rejected _ _ _ hst
    · exact not_failure_of_respond_ok rfl hr hf
  | sent a _ dest =>
    obtain ⟨st, v, e, hst⟩ := sendTo_effect dest s
    rw [e] at hr ⊢
    obtain rfl := response_eq_of_respond rfl hr
    obtain ⟨-, rfl, -⟩ | ⟨-, -, rfl, -⟩ | ⟨-, -, rfl, -⟩ := hst
    · exact .written _ _ _ _ _ (.inl rfl)
    · exact .written _ _ _ _ _ (.inr rfl)
    · exact absurd rfl hf
  | register r' v _ u c hu => exact not_failure_of_respond_ok (writeReg_sameOutside hu).1 hr hf
  | writeBank | name | header | newPacket | packet | opened | wait | closed | closedPending | store =>
    exact not_failure_of_respond_ok (by simp) hr hf

/-- Settles O54: the failures that change more than the response are of the classes 2 and 3. -/
theorem validationFailuresChangeNothing : Obligations.ValidationFailuresChangeNothing := by
  intro i s t r h hr hclass
  have hf : r.status ≠ .ok := fun hok => absurd (hok ▸ hclass) (by decide)
  cases (CommandEffect.of_exec h).failureEffect hr hf with
  | unchanged => rfl
  | forget =>
    change statusClass Status.protoBadMagic.code = 1 at hclass
    exact absurd hclass (by decide)
  | rejected _ st v hst =>
    change statusClass st.code = 1 at hclass
    obtain rfl | rfl | rfl := hst <;> exact absurd hclass (by decide)
  | written _ _ _ st v hst =>
    change statusClass st.code = 1 at hclass
    obtain rfl | rfl := hst <;> exact absurd hclass (by decide)

/-- Settles O55: `HUNMARSHAL` apart, a failure writes no more than `RPKT.VALID`, or `TXBUF` and `TXLEN`. -/
theorem failuresLeaveTheSendSideAlone : Obligations.FailuresLeaveTheSendSideAlone := by
  intro i s t r h hr hf
  cases (CommandEffect.of_exec h).failureEffect hr hf with
  | unchanged | rejected | written => exact ⟨rfl, rfl, rfl, rfl, rfl, fun _ => rfl, fun _ => rfl⟩
  | forget k =>
    cases k with
    | working => exact ⟨rfl, rfl, rfl, rfl, rfl, fun hk => absurd rfl hk, fun _ => rfl⟩
    | transmit => exact ⟨rfl, rfl, rfl, rfl, rfl, fun _ => rfl, fun hk => absurd rfl hk⟩
    | receive => exact ⟨rfl, rfl, rfl, rfl, rfl, fun _ => rfl, fun _ => rfl⟩

end Sys2Proof.Machine
end

section
/-! The statements of the spec's chapter on reset and hazards: what commands answer straight after reset (R251). -/

namespace Sys2Proof.Machine

/-! ### The zero header of a reset bank -/

/-- The wire image of the zero header is all zeros (R91). -/
theorem wireByte_zero (i : Nat) : Header.zero.wireByte i = 0 := by
  have hname : Header.zero.streamName.toList.getD (i - 8) 0 = 0 := by
    rw [Header.zero, Vector.toList_replicate, List.getD_eq_getElem?_getD, List.getElem?_getD_replicate_default_eq]
  rw [Header.wireByte, hname]
  simp [Header.zero]

/-- The zero name field holds the empty name (R102). -/
theorem nameGet_zero : nameGet Header.zero.streamName = [] := by decide

/-! ### The commands that answer from a bank -/

section
variable (k : Bank)

/-- A stored 0 is a count of 1 (R100). -/
theorem execGetspf_reset : exec (.getspf k) State.reset = .next (State.reset.respond .ok 1) := by
  rw [exec, execGetspf, bank_reset]
  rfl

theorem execGetch_reset : exec (.getch k) State.reset = .next (State.reset.respond .ok 1) := by
  rw [exec, execGetch, bank_reset]
  rfl

theorem execHmarshal_reset :
    ∃ t, exec (.hmarshal k) State.reset = .next t ∧ t.txlen.toNat = 28 ∧ ∀ i, Memory.read t.txbuf i = 0 := by
  obtain ⟨-, t, hexec, hread, hrest⟩ := hmarshalEmitsTheWireImage k State.reset
  refine ⟨t, hexec, by rw [hrest]; rfl, fun i => ?_⟩
  rw [hread, bank_reset, wireByte_zero]
  exact ite_self 0

theorem execGetname_reset :
    ∃ t, exec (.getname k) State.reset = .next t ∧ t.responses = [⟨.ok, 0⟩] ∧ t.nresLen = 0 := by
  refine ⟨_, execGetname_eq k State.reset, ?_⟩
  rw [bank_reset, nameGet_zero]
  exact ⟨rfl, rfl⟩

end

/-- Settles O48: the banks are zero, and for every other command the first test of its rule decides, on a length of zero, on no
packet or on a closed endpoint. `PUNMARSHAL` clears a flag that is clear already. -/
theorem commandsAfterReset : Obligations.CommandsAfterReset := fun k addr =>
  ⟨execGetspf_reset k, execGetch_reset k, execHunmarshal_short k (by decide),
    execPunmarshal_of_unmarshalPacket (unmarshalPacket_short State.reset (by decide)), execPmarshal_of_nil rfl,
    execSend_of_closed addr rfl, execRecv_of_closed rfl, execClose_of_closed rfl, execHmarshal_reset k, execGetname_reset k⟩

end Sys2Proof.Machine
end

section
/-! The statement about the network events of the spec's chapter on memory: none is enabled while no receive is pending (R72). -/

namespace Sys2Proof.Machine

/-- Settles O38: taking the input leaves `EP.RXPENDING` as it was, and either event tests it first. -/
theorem eventsNeedAPendingReceive : Obligations.EventsNeedAPendingReceive := by
  intro s rest hp
  have hidle : ¬ ({ s with inputs := rest } : State).epRxPending = true := Bool.eq_false_iff.mp hp
  constructor
  · intro bytes src hin
    rw [step_of_inputs hin, takeInput, if_neg hidle]
  · intro closed hin
    rw [step_of_inputs hin, takeInput, if_neg hidle]

end Sys2Proof.Machine
end
